-- ==== Sys2Proof/Word.lean ====
section
/-! DEFINITION. The word types of Evm8: bytes, 16-bit words, 24-bit real addresses and 3-bit register numbers
(spec 00_scope.md R5, R8). -/

namespace Sys2Proof

/-- A byte, the unit of addressing in all three spaces (R60). -/
abbrev Byte := BitVec 8

/-- A 16-bit word: PC, SSP, USP, FP, a register pair, a program address (R5). -/
abbrev Word := BitVec 16

/-- A real address of code or data space: "The internal address paths are 24-bit wide" (R60). -/
abbrev Addr := BitVec 24

/-- A 3-bit register number (R20, R32). -/
abbrev RegNum := BitVec 3

end Sys2Proof
end

