-- ==== Sys2Proof/Syntax.lean ====
section
/-! DEFINITION. The instructions of Evm8: one constructor of `Instr` per row of spec/opcode_table.json, in the table's
order, over the operand forms of 30_encoding.md R101 to R113. -/

namespace Sys2Proof

/-- A size bit (S, SD, SS, DB or W): 0 an 8-bit register, 1 a register pair or a 16-bit special register (R101). -/
inductive Size
  | byte
  | word
  deriving DecidableEq, Repr

/-- `w(s)`: the operand width in bits (00_scope.md R10). -/
@[reducible] def Size.bits : Size → Nat
  | .byte => 8
  | .word => 16

/-- The number of bytes an access of this size moves (20_memory.md R76). -/
@[reducible] def Size.bytes : Size → Nat
  | .byte => 1
  | .word => 2

/-- The special registers by number, 0b000 to 0b111 (10_state.md R32). -/
inductive Special
  | pc
  | sp
  | usp
  | fp
  | as
  | ps
  | cm
  /-- Number 0b111: "the source's table has no row for 0b111". -/
  | reserved
  deriving DecidableEq, Repr

/-- A register operand: a mode bit (MD or MS) and a 3-bit number (R32, R36). -/
inductive Operand
  | gp (n : RegNum)
  | special (r : Special)
  deriving DecidableEq, Repr

/-- The index of LOAD, STORE and IOCTL: absent (Ind = 0), 8 bits (C = 0) or 16 bits (C = 1) (R110). -/
inductive Index
  | none
  | short (v : Byte)
  | long (v : Word)
  deriving DecidableEq, Repr

/-- The constant of MOVC and TESTC, or the displacement of Bcc: 8 bits (W = 0) or 16 bits (W = 1) (R111). -/
inductive Imm
  | short (v : Byte)
  | long (v : Word)
  deriving DecidableEq, Repr

/-- Condition codes 000 to 111 (R113). -/
inductive Cond
  | always
  | eq
  | ne
  | gt
  | lt
  | ge
  | le
  /-- Cc = 111, "None (RFU)". -/
  | reserved
  deriving DecidableEq, Repr

/-- The LR bit: left (0) or right (1) (R101). -/
inductive Direction
  | left
  | right
  deriving DecidableEq, Repr

/-- The instructions (opcode_table.json). Field order: sizes and bits first, destination before source. -/
inductive Instr
  | nop
  | ret
  | reti
  | mov (sz : Size) (d r : Operand)
  | xor (sz : Size) (d r : Operand)
  | and (sz : Size) (d r : Operand)
  | or (sz : Size) (d r : Operand)
  | add (sz : Size) (rd rs : RegNum)
  | addc (sz : Size) (rd rs : RegNum)
  | sub (sz : Size) (rd rs : RegNum)
  | subb (sz : Size) (rd rs : RegNum)
  | test (sz : Size) (rd rs : RegNum)
  | swap (sz : Size) (rd rs : RegNum)
  | mul (sd : Size) (wide : Bool) (ss : Size) (rd rs : RegNum)
  | div (sd : Size) (wide : Bool) (ss : Size) (rd rs : RegNum)
  | shift (y : Bool) (sd : Size) (dir : Direction) (ss : Size) (rd rs : RegNum)
  | rot (y : Bool) (sd : Size) (dir : Direction) (ss : Size) (rd rs : RegNum)
  | shiftc (y : Bool) (sd : Size) (dir : Direction) (rd : RegNum) (bits : BitVec 4)
  | rotc (y : Bool) (sd : Size) (dir : Direction) (rd : RegNum) (bits : BitVec 4)
  | clrb (sd : Size) (d : Operand) (ss : Size) (rn : RegNum)
  | clrbc (sd : Size) (d : Operand) (bits : BitVec 4)
  | setb (sd : Size) (d : Operand) (ss : Size) (rn : RegNum)
  | setbc (sd : Size) (d : Operand) (bits : BitVec 4)
  | testb (sd : Size) (d : Operand) (rn : RegNum)
  | testbc (d : Operand) (bits : BitVec 4)
  | sext (rd : RegNum)
  | cmpl (sz : Size) (rd : RegNum)
  | jsr (sz : Size) (rd : RegNum)
  | reset
  | sleep
  | trap (num : BitVec 4)
  | addq (sz : Size) (rd : RegNum) (val : BitVec 4)
  | subq (sz : Size) (rd : RegNum) (val : BitVec 4)
  | mulq (sz : Size) (rd : RegNum) (val : BitVec 4)
  | libcallx (imp fn : Byte)
  /-- `fn` is `FnHi || FuncNo`, 6 bits (R109). -/
  | libcall (imp : BitVec 4) (fn : BitVec 6)
  /-- `sz` is W, `d` the data register, `db` the base's size bit DB, `base` the base register (44_load_store_io.md R210). -/
  | load (sz : Size) (d : Operand) (db : Size) (base : Operand) (idx : Index)
  | store (sz : Size) (d : Operand) (db : Size) (base : Operand) (idx : Index)
  | ioctlIn (sz : Size) (d : Operand) (db : Size) (base : Operand) (idx : Index)
  | ioctlOut (sz : Size) (d : Operand) (db : Size) (base : Operand) (idx : Index)
  | movc (d : Operand) (c : Imm)
  | testc (d : Operand) (c : Imm)
  | bcc (link : Bool) (cc : Cond) (disp : Imm)
  deriving DecidableEq, Repr

/-- The size the W bit of MOVC and TESTC gives both the constant and the register (40_move_logic.md R145). -/
@[reducible] def Imm.size : Imm → Size
  | .short _ => .byte
  | .long _ => .word

/-- The constant, as wide as its operand: no extension (30_encoding.md R112). -/
def Imm.value : (c : Imm) → BitVec c.size.bits
  | .short v => v
  | .long v => v

end Sys2Proof
end

