-- ==== Sys2Proof/WellFormed.lean ====
section
/-! DEFINITION. Which instruction terms name an encoding without a reserved field value: the checks of
30_encoding.md R118 that depend on the fields alone (not on the mode). An ill-formed term still has an encoding and a
meaning: it raises `BadInstr`. -/

namespace Sys2Proof

/-- The width of a special register; number 0b111 has no register (10_state.md R32, R36(a)). -/
def Special.size : Special → Option Size
  | .pc | .sp | .usp | .fp => some .word
  | .as | .ps | .cm => some .byte
  | .reserved => none

/-- R36(a), (b): a special register exists and has the size the instruction asks for. -/
def Operand.sized (sz : Size) : Operand → Bool
  | .gp _ => true
  | .special r => r.size == some sz

/-- R36(d): CM is read only. -/
def Operand.notCm : Operand → Bool
  | .special .cm => false
  | _ => true

/-- A destination operand without a reserved value. -/
def Operand.destWf (sz : Size) (o : Operand) : Bool := o.sized sz && o.notCm

/-- A base register of LOAD and STORE: a general register, or SP, USP or FP with DB = 1 (44_load_store_io.md R211). -/
def Operand.baseWf (db : Size) : Operand → Bool
  | .gp _ => true
  | .special .sp | .special .usp | .special .fp => db == .word
  | .special _ => false

/-- A base register of IOCTL: MS must be 0 (R216). -/
def Operand.portWf : Operand → Bool
  | .gp _ => true
  | .special _ => false

/-- The target of TESTBC takes its own width, so only number 0b111 is reserved (43_bit.md R206). -/
def Operand.exists : Operand → Bool
  | .gp _ => true
  | .special r => r.size.isSome

/-- MUL and DIV: W = 1 with SD = 1 is reserved (41_arithmetic.md R170, R171). -/
def wideWf (sd : Size) (wide : Bool) : Bool := !(wide && sd == .word)

/-- No reserved field value (30_encoding.md R118(a) to (d)). -/
def Instr.wellFormed : Instr → Bool
  | .mov sz d r | .xor sz d r | .and sz d r | .or sz d r => d.destWf sz && r.sized sz
  | .mul sd wide _ _ _ | .div sd wide _ _ _ => wideWf sd wide
  | .clrb sd d _ _ | .clrbc sd d _ | .setb sd d _ _ | .setbc sd d _ => d.destWf sd
  | .testb sd d _ => d.sized sd
  | .testbc d _ => d.exists
  | .load sz d db base _ => d.destWf sz && base.baseWf db
  | .store sz d db base _ => d.sized sz && base.baseWf db
  | .ioctlIn sz d _ base _ => d.destWf sz && base.portWf
  | .ioctlOut sz d _ base _ => d.sized sz && base.portWf
  | .movc d c => d.destWf c.size
  | .testc d c => d.sized c.size
  | .bcc _ cc _ => cc != .reserved
  | .nop | .ret | .reti | .reset | .sleep => true
  | .add _ _ _ | .addc _ _ _ | .sub _ _ _ | .subb _ _ _ | .test _ _ _ | .swap _ _ _ => true
  | .shift _ _ _ _ _ _ | .rot _ _ _ _ _ _ | .shiftc _ _ _ _ _ | .rotc _ _ _ _ _ => true
  | .sext _ | .cmpl _ _ | .jsr _ _ | .trap _ => true
  | .addq _ _ _ | .subq _ _ _ | .mulq _ _ _ => true
  | .libcallx _ _ | .libcall _ _ => true

end Sys2Proof
end

