-- ==== Sys2Proof/Decode.lean ====
section
/-! DEFINITION. The decoder and the encoder, both written from the encoding tables of 30_encoding.md (R100 to R117).
Decoding is total on any bytes and rejects by name; a rejected encoding raises `BadInstr` in the machine. -/

namespace Sys2Proof

/-- Why the decoder reads no instruction. -/
inductive Reject
  /-- Fewer bytes than the instruction's length: the fetch never hands such a list over (20_memory.md R62). -/
  | truncated
  /-- b1 = 0x03 to 0x07 or 0x48 to 0x5F (R116(a), (b)). -/
  | unassignedFirstByte
  /-- A second byte without a line under b1 = 0x38 to 0x3F (R116(c), (d)). -/
  | unassignedSecondByte
  /-- A bit the table prints as 0 is 1 (R117(a), (b)). -/
  | mustBeZero
  /-- C = 1 with Ind = 0 (R117(c)). -/
  | lengthWithoutIndex
  deriving DecidableEq, Repr

/-! ### Fields -/

/-- The size a size bit selects (R101). -/
def Size.ofBit (b : Bool) : Size := if b then .word else .byte

/-- The size bit. -/
def Size.bit : Size → BitVec 1
  | .byte => 0
  | .word => 1

/-- Special register number to register (10_state.md R32). -/
def Special.ofNum (n : RegNum) : Special :=
  match n.toNat with
  | 0 => .pc
  | 1 => .sp
  | 2 => .usp
  | 3 => .fp
  | 4 => .as
  | 5 => .ps
  | 6 => .cm
  | _ => .reserved

/-- Special register to its number (10_state.md R32). -/
def Special.num : Special → RegNum
  | .pc => 0
  | .sp => 1
  | .usp => 2
  | .fp => 3
  | .as => 4
  | .ps => 5
  | .cm => 6
  | .reserved => 7

/-- "0= GP register, 1=special register" (R101). -/
def Operand.ofBits (mode : Bool) (n : RegNum) : Operand :=
  if mode then .special (Special.ofNum n) else .gp n

/-- The mode bit of an operand. -/
def Operand.mode : Operand → BitVec 1
  | .gp _ => 0
  | .special _ => 1

/-- The 3-bit number of an operand. -/
def Operand.num : Operand → RegNum
  | .gp n => n
  | .special r => r.num

/-- The LR bit (R101). -/
def Direction.ofBit (b : Bool) : Direction := if b then .right else .left

/-- The LR bit of a direction. -/
def Direction.bit : Direction → BitVec 1
  | .left => 0
  | .right => 1

/-- Condition code to condition (R113). -/
def Cond.ofNum (n : BitVec 3) : Cond :=
  match n.toNat with
  | 0 => .always
  | 1 => .eq
  | 2 => .ne
  | 3 => .gt
  | 4 => .lt
  | 5 => .ge
  | 6 => .le
  | _ => .reserved

/-- Condition to its code (R113). -/
def Cond.num : Cond → BitVec 3
  | .always => 0
  | .eq => 1
  | .ne => 2
  | .gt => 3
  | .lt => 4
  | .ge => 5
  | .le => 6
  | .reserved => 7

/-- The register number in the low three bits of a byte. -/
def lowReg (b : Byte) : RegNum := b.extractLsb' 0 3

/-- The 4-bit field in the low half of a byte. -/
def lowNibble (b : Byte) : BitVec 4 := b.extractLsb' 0 4

/-- The 4-bit field in the high half of a byte. -/
def highNibble (b : Byte) : BitVec 4 := b.extractLsb' 4 4

/-! ### Lengths (R100) -/

/-- Whether an instruction with first byte `b1` has a second byte: not under 0x00 to 0x07 and 0x48 to 0x5F. -/
def hasSecondByte (b1 : Byte) : Bool :=
  !(b1.toNat < 0x08 || (0x48 ≤ b1.toNat && b1.toNat < 0x60))

/-- How many bytes follow b2 (R100). -/
def extraBytes (b1 b2 : Byte) : Nat :=
  if b1.toNat = 0x43 then 1
  else if b1.toNat < 0x60 then 0
  else if b1.toNat < 0xA0 then
    if b1.getLsbD 4 then (if b2.getLsbD 7 then 2 else 1) else 0
  else if b1.getLsbD 3 then 1 else 0

/-- Bytes an index takes in the instruction. -/
def Index.bytes : Index → Nat
  | .none => 0
  | .short _ => 1
  | .long _ => 2

/-- Bytes a constant or displacement takes. -/
def Imm.bytes : Imm → Nat
  | .short _ => 1
  | .long _ => 2

/-- The length L of an instruction (R100). -/
def Instr.length : Instr → Nat
  | .nop | .ret | .reti => 1
  | .libcallx _ _ => 3
  | .load _ _ _ _ idx | .store _ _ _ _ idx | .ioctlIn _ _ _ _ idx | .ioctlOut _ _ _ _ idx => 2 + idx.bytes
  | .movc _ c | .testc _ c | .bcc _ _ c => 1 + c.bytes
  | .mov _ _ _ | .xor _ _ _ | .and _ _ _ | .or _ _ _ => 2
  | .add _ _ _ | .addc _ _ _ | .sub _ _ _ | .subb _ _ _ | .test _ _ _ | .swap _ _ _ => 2
  | .mul _ _ _ _ _ | .div _ _ _ _ _ => 2
  | .shift _ _ _ _ _ _ | .rot _ _ _ _ _ _ | .shiftc _ _ _ _ _ | .rotc _ _ _ _ _ => 2
  | .clrb _ _ _ _ | .clrbc _ _ _ | .setb _ _ _ _ | .setbc _ _ _ | .testb _ _ _ | .testbc _ _ => 2
  | .sext _ | .cmpl _ _ | .jsr _ _ | .reset | .sleep | .trap _ => 2
  | .addq _ _ _ | .subq _ _ _ | .mulq _ _ _ | .libcall _ _ => 2

/-! ### Decoding -/

/-- b1 = 0x00 to 0x07 (R102, R116(a)). -/
def decodeOneByte (b1 : Byte) : Except Reject Instr :=
  match b1.toNat with
  | 0 => .ok .nop
  | 1 => .ok .ret
  | 2 => .ok .reti
  | _ => .error .unassignedFirstByte

/-- b1 = 0x08 + RD: MOV, XOR, AND, OR (R103). -/
def decodeLogic (b1 b2 : Byte) : Instr :=
  let sz := Size.ofBit (b2.getLsbD 5)
  let d := Operand.ofBits (b2.getLsbD 4) (lowReg b1)
  let r := Operand.ofBits (b2.getLsbD 3) (lowReg b2)
  match b2.getLsbD 7, b2.getLsbD 6 with
  | false, false => .mov sz d r
  | false, true => .xor sz d r
  | true, false => .and sz d r
  | true, true => .or sz d r

/-- b1 = 0x10 + RD: ADD, ADDC, SUB, SUBB; b2[4:3] must be zero (R103, R117(a)). -/
def decodeArith (b1 b2 : Byte) : Except Reject Instr :=
  let sz := Size.ofBit (b2.getLsbD 5)
  if b2.getLsbD 4 || b2.getLsbD 3 then .error .mustBeZero
  else match b2.getLsbD 7, b2.getLsbD 6 with
    | false, false => .ok (.add sz (lowReg b1) (lowReg b2))
    | true, false => .ok (.addc sz (lowReg b1) (lowReg b2))
    | false, true => .ok (.sub sz (lowReg b1) (lowReg b2))
    | true, true => .ok (.subb sz (lowReg b1) (lowReg b2))

/-- b1 = 0x18 + RD: TEST, SWAP (b2[4:3] must be zero), MUL, DIV (R103, R104). -/
def decodeTestMul (b1 b2 : Byte) : Except Reject Instr :=
  let sz := Size.ofBit (b2.getLsbD 5)
  match b2.getLsbD 7, b2.getLsbD 6 with
  | false, op =>
    if b2.getLsbD 4 || b2.getLsbD 3 then .error .mustBeZero
    else if op then .ok (.swap sz (lowReg b1) (lowReg b2)) else .ok (.test sz (lowReg b1) (lowReg b2))
  | true, false => .ok (.mul sz (b2.getLsbD 4) (Size.ofBit (b2.getLsbD 3)) (lowReg b1) (lowReg b2))
  | true, true => .ok (.div sz (b2.getLsbD 4) (Size.ofBit (b2.getLsbD 3)) (lowReg b1) (lowReg b2))

/-- b1 = 0x20 + RD: SHIFT, ROT (R105). -/
def decodeShift (b1 b2 : Byte) : Instr :=
  let y := b2.getLsbD 7
  let sd := Size.ofBit (b2.getLsbD 5)
  let dir := Direction.ofBit (b2.getLsbD 4)
  let ss := Size.ofBit (b2.getLsbD 3)
  if b2.getLsbD 6 then .rot y sd dir ss (lowReg b1) (lowReg b2) else .shift y sd dir ss (lowReg b1) (lowReg b2)

/-- b1 = 0x28 + RD: SHIFTC, ROTC (R105). -/
def decodeShiftC (b1 b2 : Byte) : Instr :=
  let y := b2.getLsbD 7
  let sd := Size.ofBit (b2.getLsbD 5)
  let dir := Direction.ofBit (b2.getLsbD 4)
  if b2.getLsbD 6 then .rotc y sd dir (lowReg b1) (lowNibble b2) else .shiftc y sd dir (lowReg b1) (lowNibble b2)

/-- b1 = 0x30 + RD: CLRB, CLRBC, SETB, SETBC (R106). -/
def decodeBit (b1 b2 : Byte) : Instr :=
  let sd := Size.ofBit (b2.getLsbD 5)
  let d := Operand.ofBits (b2.getLsbD 4) (lowReg b1)
  let ss := Size.ofBit (b2.getLsbD 3)
  match b2.getLsbD 7, b2.getLsbD 6 with
  | false, false => .clrb sd d ss (lowReg b2)
  | false, true => .clrbc sd d (lowNibble b2)
  | true, false => .setb sd d ss (lowReg b2)
  | true, true => .setbc sd d (lowNibble b2)

/-- b1 = 0x38, b2[7] = 1: SEXT, CMPL, JSR, RESET, SLEEP, TRAP, by b2[7:3] (R107, R115). -/
def decodeFx (b2 : Byte) : Except Reject Instr :=
  match (b2.extractLsb' 3 5).toNat with
  | 0b10000 => .ok (.sext (lowReg b2))
  | 0b10001 => .ok (.cmpl .byte (lowReg b2))
  | 0b10101 => .ok (.cmpl .word (lowReg b2))
  | 0b10010 => .ok (.jsr .byte (lowReg b2))
  | 0b10110 => .ok (.jsr .word (lowReg b2))
  | 0b10011 =>
    match (lowReg b2).toNat with
    | 0 => .ok .reset
    | 1 => .ok .sleep
    | _ => .error .unassignedSecondByte
  | 0b11010 => .ok (.trap (lowNibble b2))
  | 0b11011 => .ok (.trap (lowNibble b2))
  | _ => .error .unassignedSecondByte

/-- b1 = 0x38 + RD: TESTB, TESTBC (b2[5] must be zero) with b2[7] = 0; with b2[7] = 1 the FX group under RD = 0,
unassigned otherwise (R106, R107, R116, R117(b)). -/
def decodeTestBit (b1 b2 : Byte) : Except Reject Instr :=
  let d := Operand.ofBits (b2.getLsbD 4) (lowReg b1)
  if b2.getLsbD 7 then
    if lowReg b1 = 0 then decodeFx b2 else .error .unassignedSecondByte
  else if b2.getLsbD 5 then .error .mustBeZero
  else if b2.getLsbD 6 then .ok (.testbc d (lowNibble b2))
  else .ok (.testb (Size.ofBit (b2.getLsbD 3)) d (lowReg b2))

/-- b1 = 0x40 to 0x47: ADDQ, SUBQ, MULQ, LIBCALLX, LIBCALL (R108, R109). -/
def decodeQuick (b1 b2 : Byte) (rest : List Byte) : Except Reject (Instr × List Byte) :=
  let sz := Size.ofBit (b2.getLsbD 3)
  match (lowReg b1).toNat with
  | 0 => .ok (.addq sz (lowReg b2) (highNibble b2), rest)
  | 1 => .ok (.subq sz (lowReg b2) (highNibble b2), rest)
  | 2 => .ok (.mulq sz (lowReg b2) (highNibble b2), rest)
  | 3 =>
    match rest with
    | b3 :: rest => .ok (.libcallx b2 b3, rest)
    | [] => .error .truncated
  | _ => .ok (.libcall (highNibble b2) (b1.extractLsb' 0 2 ++ lowNibble b2), rest)

/-- The index bytes of format FMEM: `ind` is b1[4], `long` is C = b2[7] (R110, R112, R117(c)). -/
def decodeIndex (ind long : Bool) (rest : List Byte) : Except Reject (Index × List Byte) :=
  match ind, long, rest with
  | false, false, rest => .ok (.none, rest)
  | false, true, _ => .error .lengthWithoutIndex
  | true, false, b3 :: rest => .ok (.short b3, rest)
  | true, true, b3 :: b4 :: rest => .ok (.long (b4 ++ b3), rest)
  | true, _, _ => .error .truncated

/-- b1 = 0x60 to 0x9F: LOAD, STORE (`io` false), IOCTL (`io` true) (R110). -/
def decodeMem (io : Bool) (b1 b2 : Byte) (rest : List Byte) : Except Reject (Instr × List Byte) :=
  match decodeIndex (b1.getLsbD 4) (b2.getLsbD 7) rest with
  | .error r => .error r
  | .ok (idx, rest) =>
    let sz := Size.ofBit (b1.getLsbD 3)
    let d := Operand.ofBits (b2.getLsbD 4) (lowReg b1)
    let db := Size.ofBit (b2.getLsbD 5)
    let base := Operand.ofBits (b2.getLsbD 3) (lowReg b2)
    match io, b2.getLsbD 6 with
    | false, false => .ok (.load sz d db base idx, rest)
    | false, true => .ok (.store sz d db base idx, rest)
    | true, false => .ok (.ioctlIn sz d db base idx, rest)
    | true, true => .ok (.ioctlOut sz d db base idx, rest)

/-- The constant or displacement of formats FI and FBR, least significant byte first (R111, R112). -/
def decodeImm (wide : Bool) (b2 : Byte) (rest : List Byte) : Except Reject (Imm × List Byte) :=
  match wide, rest with
  | false, rest => .ok (.short b2, rest)
  | true, b3 :: rest => .ok (.long (b3 ++ b2), rest)
  | true, [] => .error .truncated

/-- b1 = 0xA0 to 0xFF: MOVC (101), TESTC (110), Bcc (111), by b1[6:5] (R111). -/
def decodeConst (b1 b2 : Byte) (rest : List Byte) : Except Reject (Instr × List Byte) :=
  match decodeImm (b1.getLsbD 3) b2 rest with
  | .error r => .error r
  | .ok (c, rest) =>
    match b1.getLsbD 6, b1.getLsbD 5 with
    | false, _ => .ok (.movc (Operand.ofBits (b1.getLsbD 4) (lowReg b1)) c, rest)
    | true, false => .ok (.testc (Operand.ofBits (b1.getLsbD 4) (lowReg b1)) c, rest)
    | true, true => .ok (.bcc (b1.getLsbD 4) (Cond.ofNum (lowReg b1)) c, rest)

/-- An instruction of format F1, FRR, FSH, ... takes no byte after b2. -/
def noMoreBytes (rest : List Byte) (r : Except Reject Instr) : Except Reject (Instr × List Byte) :=
  match r with
  | .ok i => .ok (i, rest)
  | .error e => .error e

/-- An instruction with a second byte, by the first five bits of b1 (R114). -/
def decodeTwo (b1 b2 : Byte) (rest : List Byte) : Except Reject (Instr × List Byte) :=
  match (b1.extractLsb' 3 5).toNat with
  | 1 => .ok (decodeLogic b1 b2, rest)
  | 2 => noMoreBytes rest (decodeArith b1 b2)
  | 3 => noMoreBytes rest (decodeTestMul b1 b2)
  | 4 => .ok (decodeShift b1 b2, rest)
  | 5 => .ok (decodeShiftC b1 b2, rest)
  | 6 => .ok (decodeBit b1 b2, rest)
  | 7 => noMoreBytes rest (decodeTestBit b1 b2)
  | 8 => decodeQuick b1 b2 rest
  | 12 | 13 | 14 | 15 => decodeMem false b1 b2 rest
  | 16 | 17 | 18 | 19 => decodeMem true b1 b2 rest
  | 20 | 21 | 22 | 23 | 24 | 25 | 26 | 27 | 28 | 29 | 30 | 31 => decodeConst b1 b2 rest
  | _ => .error .unassignedFirstByte

/-- The decoder: the instruction at the head of the bytes, and the bytes after it (R114, R115). -/
def decode : List Byte → Except Reject (Instr × List Byte)
  | [] => .error .truncated
  | b1 :: rest =>
    if b1.toNat < 0x08 then noMoreBytes rest (decodeOneByte b1)
    else if hasSecondByte b1 then
      match rest with
      | [] => .error .truncated
      | b2 :: rest => decodeTwo b1 b2 rest
    else .error .unassignedFirstByte

/-! ### Encoding -/

/-- One bit. -/
def bit1 (b : Bool) : BitVec 1 := BitVec.ofBool b

/-- `00001 RD | sub S MD MS RS` (R103). -/
def encodeLogic (sub : BitVec 2) (sz : Size) (d r : Operand) : List Byte :=
  [0b00001#5 ++ d.num, sub ++ sz.bit ++ d.mode ++ r.mode ++ r.num]

/-- `op RD | sub S 00 RS` (R103). -/
def encodeArith (op : BitVec 5) (sub : BitVec 2) (sz : Size) (rd rs : RegNum) : List Byte :=
  [op ++ rd, sub ++ sz.bit ++ 0b00#2 ++ rs]

/-- `00011 RD | 1 o SD W SS RS` (R104). -/
def encodeMul (o : BitVec 2) (sd : Size) (wide : Bool) (ss : Size) (rd rs : RegNum) : List Byte :=
  [0b00011#5 ++ rd, o ++ sd.bit ++ bit1 wide ++ ss.bit ++ rs]

/-- `00100 RD | Y o SD LR SS RS` (R105). -/
def encodeShift (o : BitVec 1) (y : Bool) (sd : Size) (dir : Direction) (ss : Size) (rd rs : RegNum) : List Byte :=
  [0b00100#5 ++ rd, bit1 y ++ o ++ sd.bit ++ dir.bit ++ ss.bit ++ rs]

/-- `00101 RD | Y o SD LR Bits` (R105). -/
def encodeShiftC (o : BitVec 1) (y : Bool) (sd : Size) (dir : Direction) (rd : RegNum) (bits : BitVec 4) : List Byte :=
  [0b00101#5 ++ rd, bit1 y ++ o ++ sd.bit ++ dir.bit ++ bits]

/-- `00110 RD | o SD MD SS Rn` (R106). -/
def encodeBit (o : BitVec 2) (sd : Size) (d : Operand) (ss : Size) (rn : RegNum) : List Byte :=
  [0b00110#5 ++ d.num, o ++ sd.bit ++ d.mode ++ ss.bit ++ rn]

/-- `00110 RD | o SD MD Bits` (R106). -/
def encodeBitC (o : BitVec 2) (sd : Size) (d : Operand) (bits : BitVec 4) : List Byte :=
  [0b00110#5 ++ d.num, o ++ sd.bit ++ d.mode ++ bits]

/-- The Ind and C bits and the index bytes (R110). -/
def Index.encode : Index → BitVec 1 × BitVec 1 × List Byte
  | .none => (0, 0, [])
  | .short v => (1, 0, [v])
  | .long v => (1, 1, [v.extractLsb' 0 8, v.extractLsb' 8 8])

/-- `op Ind W RD | C Dir DB MD MS RS | index` (R110). -/
def encodeMem (op : BitVec 3) (dir : BitVec 1) (sz : Size) (d : Operand) (db : Size) (base : Operand) (idx : Index) :
    List Byte :=
  (op ++ idx.encode.1 ++ sz.bit ++ d.num) ::
    (idx.encode.2.1 ++ dir ++ db.bit ++ d.mode ++ base.mode ++ base.num) :: idx.encode.2.2

/-- The W bit and the bytes of a constant or displacement (R111). -/
def Imm.encode : Imm → BitVec 1 × List Byte
  | .short v => (0, [v])
  | .long v => (1, [v.extractLsb' 0 8, v.extractLsb' 8 8])

/-- `op x W num | C-LSB | C-MSB` (R111). -/
def encodeConst (op : BitVec 3) (x : BitVec 1) (num : BitVec 3) (c : Imm) : List Byte :=
  (op ++ x ++ c.encode.1 ++ num) :: c.encode.2

/-- `op | Val S RD` (R108). -/
def encodeQuick (op : Byte) (sz : Size) (rd : RegNum) (val : BitVec 4) : List Byte :=
  [op, val ++ sz.bit ++ rd]

/-- The bytes of an instruction, in address order (R102 to R111). -/
def encode : Instr → List Byte
  | .nop => [0x00]
  | .ret => [0x01]
  | .reti => [0x02]
  | .mov sz d r => encodeLogic 0b00 sz d r
  | .xor sz d r => encodeLogic 0b01 sz d r
  | .and sz d r => encodeLogic 0b10 sz d r
  | .or sz d r => encodeLogic 0b11 sz d r
  | .add sz rd rs => encodeArith 0b00010 0b00 sz rd rs
  | .addc sz rd rs => encodeArith 0b00010 0b10 sz rd rs
  | .sub sz rd rs => encodeArith 0b00010 0b01 sz rd rs
  | .subb sz rd rs => encodeArith 0b00010 0b11 sz rd rs
  | .test sz rd rs => encodeArith 0b00011 0b00 sz rd rs
  | .swap sz rd rs => encodeArith 0b00011 0b01 sz rd rs
  | .mul sd wide ss rd rs => encodeMul 0b10 sd wide ss rd rs
  | .div sd wide ss rd rs => encodeMul 0b11 sd wide ss rd rs
  | .shift y sd dir ss rd rs => encodeShift 0 y sd dir ss rd rs
  | .rot y sd dir ss rd rs => encodeShift 1 y sd dir ss rd rs
  | .shiftc y sd dir rd bits => encodeShiftC 0 y sd dir rd bits
  | .rotc y sd dir rd bits => encodeShiftC 1 y sd dir rd bits
  | .clrb sd d ss rn => encodeBit 0b00 sd d ss rn
  | .clrbc sd d bits => encodeBitC 0b01 sd d bits
  | .setb sd d ss rn => encodeBit 0b10 sd d ss rn
  | .setbc sd d bits => encodeBitC 0b11 sd d bits
  | .testb sd d rn => [0b00111#5 ++ d.num, 0b000#3 ++ d.mode ++ sd.bit ++ rn]
  | .testbc d bits => [0b00111#5 ++ d.num, 0b010#3 ++ d.mode ++ bits]
  | .sext rd => [0x38, 0b10000#5 ++ rd]
  | .cmpl sz rd => [0x38, 0b10#2 ++ sz.bit ++ 0b01#2 ++ rd]
  | .jsr sz rd => [0x38, 0b10#2 ++ sz.bit ++ 0b10#2 ++ rd]
  | .reset => [0x38, 0x98]
  | .sleep => [0x38, 0x99]
  | .trap num => [0x38, 0b1101#4 ++ num]
  | .addq sz rd val => encodeQuick 0x40 sz rd val
  | .subq sz rd val => encodeQuick 0x41 sz rd val
  | .mulq sz rd val => encodeQuick 0x42 sz rd val
  | .libcallx imp fn => [0x43, imp, fn]
  | .libcall imp fn => [0b010001#6 ++ fn.extractLsb' 4 2, imp ++ fn.extractLsb' 0 4]
  | .load sz d db base idx => encodeMem 0b011 0 sz d db base idx
  | .store sz d db base idx => encodeMem 0b011 1 sz d db base idx
  | .ioctlIn sz d db base idx => encodeMem 0b100 0 sz d db base idx
  | .ioctlOut sz d db base idx => encodeMem 0b100 1 sz d db base idx
  | .movc d c => encodeConst 0b101 d.mode d.num c
  | .testc d c => encodeConst 0b110 d.mode d.num c
  | .bcc link cc disp => encodeConst 0b111 (bit1 link) cc.num disp

/-! ### The opcode table's numbering -/

/-- The four code bytes of an instruction word `w` of `nbits` bits, numbered as opcode_table.json numbers them: the
first word is `b1 * 256 + b2` (R120), b1 in bits 15 to 8; with 8 bits the one byte is b1. Later bytes follow: with
24 bits b3 is bits 23 to 16, with 32 bits b3 is bits 31 to 24 and b4 bits 23 to 16 (log 17). Bytes past `nbits` are 0. -/
def tableBytes (nbits w : Nat) : List Byte :=
  let byteOf (lo : Nat) : Byte := BitVec.ofNat 8 (w / 2 ^ lo)
  if nbits ≤ 8 then [byteOf 0, 0, 0, 0]
  else if nbits ≤ 16 then [byteOf 8, byteOf 0, 0, 0]
  else if nbits ≤ 24 then [byteOf 8, byteOf 0, byteOf 16, 0]
  else [byteOf 8, byteOf 0, byteOf 24, byteOf 16]

/-- The instruction the decoder reads from a word of the opcode table. -/
def decodeTableWord (nbits w : Nat) : Option Instr :=
  match decode (tableBytes nbits w) with
  | .ok (i, _) => some i
  | .error _ => none

end Sys2Proof
end

