-- ==== Sys2Proof/Config.lean ====
section
/-! DEFINITION. What the spec leaves open: values that result but that no rule fixes. Each is a constant with no
body, so that nothing in Lean can evaluate it or prove a value of it; the machine applies it to plain data of State
(the number of reboots, the number of IO accesses). A claim about the model holds whatever these are. -/

namespace Sys2Proof.Config

/-- DESIGN CHOICE (log 9). The byte a peripheral supplies: access number `n` (counted from 0), port `port`.
"The model takes each IO read as a free value supplied by the environment" (20_memory.md R70). -/
opaque ioRead (n : Nat) (port : Word) : Byte

/-- DESIGN CHOICE (log 5). The content of the data-space byte at real address `a` that nothing has written since
reboot number `boot` (10_state.md R43: "the model must not let a program rely on the value"). -/
opaque unwrittenByte (boot a : Nat) : Byte

/-- DESIGN CHOICE (log 4). General register `n` right after reboot number `boot` (70_reset_and_hazards.md R305). -/
opaque bootReg (boot n : Nat) : Byte

/-- DESIGN CHOICE (log 4). FP right after reboot number `boot` (R305). -/
opaque bootFp (boot : Nat) : Word

/-- DESIGN CHOICE (log 4). AS right after reboot number `boot`, before its mask (R305). -/
opaque bootAs (boot : Nat) : Byte

/-- DESIGN CHOICE (log 4). Where reboot number `boot` places the BSS block of module `m`, before it is brought into
data space ("BSS blocks are assigned again and may or may not be the same", R305). -/
opaque bssPlace (boot m : Nat) : Nat

/-- DESIGN CHOICE (log 21). Whether the assembler's `.dw` and `.dl` store the least significant byte first: "The byte
order in which `.dw` and `.dl` store their bytes is not stated" (30_encoding.md R129). No step reads it. -/
opaque asmLowFirst : Bool

end Sys2Proof.Config
end

