-- ==== Sys2Proof/Machine/State.lean ====
section
/-! DEFINITION. The state of Evm8 as plain data, the reasons a step can stop, and the state right after reset
(10_state.md, 70_reset_and_hazards.md R303). -/

namespace Sys2Proof.Machine

/-- Why the machine stops. Every condition the spec describes is an exception, a reboot, a sleep or a halt, which are
next states; a fault is left only for a module table outside the spec (log 7). -/
inductive Fault
  /-- Raised by a fetch whose range check passed but whose real address is not in code space: a module record without
  its `code_size` code bytes, which 20_memory.md R61 and R80 rule out. Safe. -/
  | noCodeByte
  deriving DecidableEq, Repr

/-- Why an instruction has no meaning. -/
inductive Refusal
  /-- Raised by `exec` for an instruction without a meaning yet. No arm of this model raises it. Safe. -/
  | notModelled (mnemonic : String)
  deriving DecidableEq, Repr

/-- The ALU status register AS: its four bits; bits 4 to 7 always read as zero and hold nothing (R27). -/
structure Flags where
  /-- B0, "Last result was zero". -/
  z : Bool
  /-- B1, "Last result produced a carry". -/
  c : Bool
  /-- B2, "Last result was negative". -/
  n : Bool
  /-- B3, "Last result overflowed". -/
  v : Bool
  deriving DecidableEq, Repr

/-- The processor status register PS: its five bits; bits 5 to 7 always read as zero and hold nothing (R35). -/
structure Status where
  /-- B0, "Processor mode (0=user, 1=supervisor)". -/
  m : Bool
  /-- B1, "Trace/ Single step": stored, no effect (60_exceptions.md R288). -/
  t : Bool
  /-- B2, "Global Interrupt enable". -/
  i : Bool
  /-- B3, "Endianess control (0=LE, 1=BE)". -/
  b : Bool
  /-- B4, "Stack mode enable". -/
  sm : Bool
  deriving DecidableEq, Repr

/-- The two stacks: the supervisor's (S) and the user's (U) (20_memory.md R72). -/
inductive StackId
  | sup
  | usr
  deriving DecidableEq, Repr

/-- The kinds of link record (10_state.md R41). -/
inductive LinkKind
  | lib
  | vm
  | idle
  deriving DecidableEq, Repr

/-- A record of the hidden link stack (R41). -/
structure LinkRec where
  kind : LinkKind
  /-- The module to return to; none for `vm` and `idle`. -/
  cm : Option Byte
  stack : StackId
  /-- The value of that stack's pointer that identifies the matching RET or RETI. -/
  sp : Word
  deriving DecidableEq, Repr

/-- What the machine is doing (70_reset_and_hazards.md R302, 60_exceptions.md R289). -/
inductive RunState
  | running
  /-- ASLEEP, set by SLEEP (46_system.md R253). -/
  | asleep
  /-- The VM's sleep state (R302(c)). -/
  | vmSleep
  /-- "the system is halted" (R302(d)). -/
  | halted
  deriving DecidableEq, Repr

/-- Which module the boot sequence started: what the VM does when it returns (R302(a), (b); log 12). -/
inductive VmPhase
  | kernel
  | application
  deriving DecidableEq, Repr

/-- The parameter SUB_ORDER (41_arithmetic.md R160). -/
inductive SubOrder
  | srcMinusDst
  | dstMinusSrc
  deriving DecidableEq, Repr

/-- Memory: the listed (address, byte) pairs, addresses strictly rising, no entry equal to what an unlisted address
reads as (`Memory.wf`, Machine/Memory.lean). -/
abbrev Memory := List Host.Cell

/-- A record of the module table MODS (20_memory.md R80). Its code bytes stand in code space at `codeBase`. -/
structure Module where
  /-- 8 bytes, zero padded. -/
  name : List Byte
  /-- Registry flags: B0 default application, B1 kernel module (R82). -/
  flags : Byte
  codeBase : Addr
  codeSize : Word
  bssBase : Addr
  bssSize : Word
  imports : List (List Byte)
  exports : List Word
  deriving DecidableEq, Repr

/-- An IO descriptor (60_exceptions.md R286): the registered serial port, or one of a tag "it does not know", of which
the list gives the value bytes. -/
inductive Descriptor
  /-- Tag 0x01, length 2, the "I/O port address base". -/
  | serialPort (base : Word)
  /-- A tag that is not registered. -/
  | other (tag : Byte) (value : List Byte)
  deriving DecidableEq, Repr

/-- The parameters the model takes as arguments (00_scope.md R6); no instruction changes them. -/
structure Platform where
  /-- DATA_SIZE. -/
  dataSize : Nat
  /-- CODE_SPACE_SIZE. -/
  codeSpaceSize : Nat
  /-- IO_SIZE. -/
  ioSize : Nat
  /-- TOS_S, the real address of supervisor stack index 0. -/
  tosS : Addr
  /-- SIZE_S. -/
  sizeS : Nat
  /-- TOS_U. -/
  tosU : Addr
  /-- SIZE_U. -/
  sizeU : Nat
  /-- NIRQ. -/
  nirq : Nat
  subOrder : SubOrder
  /-- The IO descriptor list, without its end tag (R286). -/
  descriptors : List Descriptor
  deriving DecidableEq, Repr

/-- One access to a peripheral (20_memory.md R70). -/
inductive IoEvent
  | read (port : Word) (value : Byte)
  | written (port : Word) (value : Byte)
  deriving DecidableEq, Repr

/-- What the environment does before one step: the interrupts that become pending, and whether the machine is reset
from outside (00_scope.md R13(c), 60_exceptions.md R270, R289; log 8). -/
structure EnvInput where
  irqs : List Nat
  reset : Bool
  deriving DecidableEq, Repr

/-- The machine. INVENTORY.md lists each field with its rule and reset value. -/
structure State where
  regs : Vector Byte 8
  pc : Word
  ssp : Word
  usp : Word
  fp : Word
  flags : Flags
  ps : Status
  cm : Byte
  link : List LinkRec
  pending : List Nat
  run : RunState
  vmPhase : VmPhase
  data : Memory
  code : Memory
  mods : List Module
  platform : Platform
  ioLog : List IoEvent
  inputs : List EnvInput
  boots : Nat
  deriving DecidableEq, Repr

/-- The parameters at reset: those the spec fixes (SUB_ORDER, TOS_S, SIZE_S, TOS_U = DATA_SIZE - 1) and, DESIGN
CHOICE (log 3), the values of 95_test_vectors.md section 0 for the open ones. -/
def Platform.reset : Platform where
  dataSize := 0x1000
  codeSpaceSize := 0x1000000
  ioSize := 0x100
  tosS := 128
  sizeS := 128
  tosU := 0xFFF
  sizeU := 256
  nirq := 8
  subOrder := .srcMinusDst
  descriptors := []

/-- The machine right after reset with no module loaded: boot finds neither a kernel nor a default application, and
"the system is halted" (R300). R0 to R7, FP, AS, and PC, CM, PS.M of a machine that runs no module: DESIGN CHOICE
(log 1, log 2); how a program comes to run: log 18. -/
def State.reset : State where
  regs := #v[0, 0, 0, 0, 0, 0, 0, 0]
  pc := 0
  ssp := 0
  usp := 0
  fp := 0
  flags := ⟨false, false, false, false⟩
  ps := ⟨true, false, false, false, false⟩
  cm := 0
  link := []
  pending := []
  run := .halted
  vmPhase := .application
  data := []
  code := []
  mods := []
  platform := .reset
  ioLog := []
  inputs := []
  boots := 0

end Sys2Proof.Machine
end

