-- ==== Sys2Proof/Machine/Flags.lean ====
section
/-! DEFINITION. AS and PS as bytes, and every flag computation the spec gives (10_state.md R27 to R31, R35;
42_shift_rotate.md R190). -/

namespace Sys2Proof.Machine

/-- A read of AS: `0b0000 || V || N || C || Z` (R27). -/
def Flags.toByte (f : Flags) : Byte :=
  0b0000#4 ++ BitVec.ofBool f.v ++ BitVec.ofBool f.n ++ BitVec.ofBool f.c ++ BitVec.ofBool f.z

/-- A write of `v` to AS: bits 4 to 7 are discarded (R27). -/
def Flags.ofByte (v : Byte) : Flags :=
  ⟨v.getLsbD 0, v.getLsbD 1, v.getLsbD 2, v.getLsbD 3⟩

/-- A read of PS: `0b000 || SM || B || I || T || M` (R35). -/
def Status.toByte (p : Status) : Byte :=
  0b000#3 ++ BitVec.ofBool p.sm ++ BitVec.ofBool p.b ++ BitVec.ofBool p.i ++ BitVec.ofBool p.t ++ BitVec.ofBool p.m

/-- A write of `v` to PS: bits 5 to 7 are discarded (R35). -/
def Status.ofByte (v : Byte) : Status :=
  ⟨v.getLsbD 0, v.getLsbD 1, v.getLsbD 2, v.getLsbD 3, v.getLsbD 4⟩

/-- `SetZN_w(r)`: Z and N from a result, C and V kept (R29). -/
def Flags.setZN {w : Nat} (f : Flags) (r : BitVec w) : Flags :=
  { f with z := decide (r = 0), n := r.msb }

/-- `AddFlags_w(a, b, c)`: the sum and its four flags (R30). -/
def addFlags {w : Nat} (a b : BitVec w) (c : Bool) : BitVec w × Flags :=
  let t := a.toNat + b.toNat + c.toNat
  let r := BitVec.ofNat w t
  (r, { z := decide (r = 0)
        c := decide (2 ^ w ≤ t)
        n := r.msb
        v := (a.msb == b.msb) && (r.msb != a.msb) })

/-- `SubFlags_w(x, y, c)`: the difference x - y - c and its four flags; C is the borrow (R31). -/
def subFlags {w : Nat} (x y : BitVec w) (c : Bool) : BitVec w × Flags :=
  let t : Int := (x.toNat : Int) - (y.toNat : Int) - (c.toNat : Int)
  let r := BitVec.ofInt w t
  (r, { z := decide (r = 0)
        c := decide (t < 0)
        n := r.msb
        v := (x.msb != y.msb) && (r.msb != x.msb) })

/-- The four operations of 42_shift_rotate.md R190, by name. -/
inductive ShiftOp
  | shift
  /-- Rotate with Y = 0. -/
  | rotate
  /-- Rotate with Y = 1, through C. -/
  | rotateCarry
  deriving DecidableEq, Repr

/-- One step of R190: the new value and the new carry (false where the spec says "not produced"). -/
def shiftStep {w : Nat} (op : ShiftOp) (dir : Direction) (v : BitVec w) (c : Bool) : BitVec w × Bool :=
  match op, dir with
  | .shift, .left => (BitVec.ofNat w (v.toNat * 2), v.msb)
  | .shift, .right => (BitVec.ofNat w (v.toNat / 2), v.getLsbD 0)
  | .rotate, .left => (BitVec.ofNat w (v.toNat * 2 % 2 ^ w + v.msb.toNat), false)
  | .rotate, .right => (BitVec.ofNat w (v.toNat / 2 + (v.getLsbD 0).toNat * 2 ^ (w - 1)), false)
  | .rotateCarry, .left => (BitVec.ofNat w (v.toNat * 2 % 2 ^ w + c.toNat), v.msb)
  | .rotateCarry, .right => (BitVec.ofNat w (v.toNat / 2 + c.toNat * 2 ^ (w - 1)), v.getLsbD 0)

/-- `Iter(op, v, c, n)`: n single steps, each step's carry fed to the next (R190). -/
def shiftIter {w : Nat} (op : ShiftOp) (dir : Direction) (v : BitVec w) (c : Bool) : Nat → BitVec w × Bool
  | 0 => (v, c)
  | n + 1 =>
    let p := shiftStep op dir v c
    shiftIter op dir p.1 p.2 n

/-- A (w+1)-bit rotation of `c || v` by `n mod (w+1)` places (R190). -/
def rotateThroughCarry {w : Nat} (dir : Direction) (v : BitVec w) (c : Bool) (n : Nat) : BitVec w × Bool :=
  let x : BitVec (w + 1) := BitVec.cons c v
  let y := match dir with
    | .left => x.rotateLeft n
    | .right => x.rotateRight n
  (y.setWidth w, y.msb)

/-- The closed forms of R190 ("equal to the iteration, which a model may use instead"): the result, and the last bit
moved out, which the instruction uses only with Y = 1 and n at least 1. -/
def shiftClosed {w : Nat} (op : ShiftOp) (dir : Direction) (v : BitVec w) (c : Bool) (n : Nat) : BitVec w × Bool :=
  match op, dir with
  | .shift, .left => (v <<< n, decide (n ≤ w) && v.getLsbD (w - n))
  | .shift, .right => (v >>> n, decide (1 ≤ n) && v.getLsbD (n - 1))
  | .rotate, .left => (v.rotateLeft n, false)
  | .rotate, .right => (v.rotateRight n, false)
  | .rotateCarry, dir => rotateThroughCarry dir v c n

/-- The flags after a shift or rotate: Z and N always; C the last bit moved out when Y = 1 and n is at least 1; V
never (R190). -/
def Flags.afterShift {w : Nat} (f : Flags) (y : Bool) (n : Nat) (r : BitVec w) (out : Bool) : Flags :=
  let g := f.setZN r
  if y && decide (1 ≤ n) then { g with c := out } else g

/-- `Cond(cc)` over the flags (45_control.md R231); the reserved code is refused before it is asked. -/
def Flags.cond (f : Flags) : Cond → Bool
  | .always => true
  | .eq => f.z
  | .ne => !f.z
  | .gt => !f.z && (f.n == f.v)
  | .lt => f.n != f.v
  | .ge => f.n == f.v
  | .le => f.z || (f.n != f.v)
  | .reserved => false

end Sys2Proof.Machine
end

