-- ==== Sys2Proof/Machine/Memory.lean ====
section
/-! DEFINITION. Memory as a canonical list of cells: reading, writing, and the form every operation keeps. -/

namespace Sys2Proof.Machine

/-- The two spaces that hold bytes of their own (20_memory.md R60). -/
inductive MemKind
  | code
  | data
  deriving DecidableEq, Repr

/-- What an unlisted address reads as. Code space: 0x00, "the memory erased state" (45_control.md R230; DEDUCED,
log 6). Data space: no value, since its content is unspecified until written (10_state.md R43; log 5). -/
def unlisted : MemKind → Option Byte
  | .code => some 0
  | .data => none

/-- The byte listed at an address. -/
def Memory.listed : Memory → Nat → Option Byte
  | [], _ => none
  | (a, b) :: rest, k => if k = a then some b else Memory.listed rest k

/-- The byte at an address, or what an unlisted one reads as. -/
def Memory.read (kind : MemKind) (m : Memory) (a : Nat) : Option Byte :=
  match Memory.listed m a with
  | some b => some b
  | none => unlisted kind

/-- List a byte, in address order. -/
def Memory.put : Memory → Nat → Byte → Memory
  | [], k, v => [(k, v)]
  | (a, b) :: rest, k, v =>
    if k < a then (k, v) :: (a, b) :: rest
    else if k = a then (k, v) :: rest
    else (a, b) :: Memory.put rest k v

/-- Unlist an address. -/
def Memory.remove : Memory → Nat → Memory
  | [], _ => []
  | (a, b) :: rest, k => if k = a then rest else (a, b) :: Memory.remove rest k

/-- Store a byte: writing what an unlisted address reads as removes the entry. -/
def Memory.write (kind : MemKind) (m : Memory) (k : Nat) (v : Byte) : Memory :=
  if unlisted kind = some v then Memory.remove m k else Memory.put m k v

/-- Addresses strictly rise, and all lie at or above `lo`. -/
def Memory.risingFrom (lo : Nat) : Memory → Bool
  | [] => true
  | (a, _) :: rest => decide (lo ≤ a) && Memory.risingFrom (a + 1) rest

/-- The canonical form: addresses strictly rising, no entry equal to what an unlisted address reads as. -/
def Memory.wf (kind : MemKind) (m : Memory) : Bool :=
  Memory.risingFrom 0 m && m.all fun c => !(unlisted kind == some c.2)

/-- Every listed address is below `size`. -/
def Memory.below (size : Nat) (m : Memory) : Bool :=
  m.all fun c => decide (c.1 < size)

end Sys2Proof.Machine
end

