-- ==== Sys2Proof/Machine/Update.lean ====
section
/-! DEFINITION. The one-field updates of State, through which every operation writes; Laws/State.lean says what each
leaves alone. -/

namespace Sys2Proof.Machine

/-- `PC <- v`. -/
def State.setPc (s : State) (v : Word) : State := { s with pc := v }

/-- All eight general registers at once. -/
def State.setRegs (s : State) (v : Vector Byte 8) : State := { s with regs := v }

/-- `AS <- v`. -/
def State.setFlags (s : State) (v : Flags) : State := { s with flags := v }

/-- `PS <- v`. -/
def State.setPs (s : State) (v : Status) : State := { s with ps := v }

/-- `CM <- v`. -/
def State.setCm (s : State) (v : Byte) : State := { s with cm := v }

/-- `FP <- v`. -/
def State.setFp (s : State) (v : Word) : State := { s with fp := v }

/-- `SSP <- v`. -/
def State.setSsp (s : State) (v : Word) : State := { s with ssp := v }

/-- `USP <- v`. -/
def State.setUsp (s : State) (v : Word) : State := { s with usp := v }

/-- `LINK <- v`. -/
def State.setLink (s : State) (v : List LinkRec) : State := { s with link := v }

/-- `PENDING <- v`. -/
def State.setPending (s : State) (v : List Nat) : State := { s with pending := v }

/-- What the machine is doing. -/
def State.setRun (s : State) (v : RunState) : State := { s with run := v }

/-- Which module the boot sequence started. -/
def State.setVmPhase (s : State) (v : VmPhase) : State := { s with vmPhase := v }

/-- Data space as a whole. -/
def State.setData (s : State) (v : Memory) : State := { s with data := v }

/-- The record of IO accesses. -/
def State.setIoLog (s : State) (v : List IoEvent) : State := { s with ioLog := v }

/-- What the environment does at the coming steps. -/
def State.setInputs (s : State) (v : List EnvInput) : State := { s with inputs := v }

end Sys2Proof.Machine
end

