-- ==== Sys2Proof/Machine/Boot.lean ====
section
/-! DEFINITION. The VM: the two modes' stacks, the modules the registry flags name, starting a module, its return,
the sleep state, halt, and the boot sequence that RESET and every reboot run (70_reset_and_hazards.md R300 to R305). -/

namespace Sys2Proof.Machine

/-! ### The two stacks -/

/-- The current stack: the supervisor's when PS.M = 1, the user's when PS.M = 0 (20_memory.md R72). -/
def State.curStack (s : State) : StackId := if s.ps.m then .sup else .usr

/-- The pointer of a stack. -/
def State.spOf (s : State) : StackId → Word
  | .sup => s.ssp
  | .usr => s.usp

/-- Write the pointer of a stack. -/
def State.setSp (s : State) (k : StackId) (v : Word) : State :=
  match k with
  | .sup => s.setSsp v
  | .usr => s.setUsp v

/-- SP: SSP or USP by mode (10_state.md R33). -/
def State.sp (s : State) : Word := s.spOf s.curStack

/-- `SIZE_k` (20_memory.md R68). -/
def Platform.stackSize (p : Platform) : StackId → Nat
  | .sup => p.sizeS
  | .usr => p.sizeU

/-- `TOS_k` (10_state.md R39). -/
def Platform.tos (p : Platform) : StackId → Addr
  | .sup => p.tosS
  | .usr => p.tosU

/-! ### The module table -/

/-- The module a number names, if one is loaded. -/
def State.moduleAt (s : State) (m : Byte) : Option Module := s.mods[m.toNat]?

/-- The module CM names. -/
def State.curModule (s : State) : Option Module := s.moduleAt s.cm

/-- The lowest-numbered module with a registry flag set (20_memory.md R82; DEDUCED, log 11). -/
def flaggedModule (mods : List Module) (bit : Nat) : Option Byte :=
  (mods.findIdx? fun m => m.flags.getLsbD bit).map (BitVec.ofNat 8)

/-- KERNEL: the module whose flag B1 is set, or none (R82). -/
def State.kernel (s : State) : Option Byte := flaggedModule s.mods 1

/-- DEFAULT_APP: the module whose flag B0 is set, or none (R82). -/
def State.defaultApp (s : State) : Option Byte := flaggedModule s.mods 0

/-! ### Starting a module and returning from it -/

/-- `Start(m, mode)` (R301): the mode, CM, PC = 0, and a `vm` record with the mode's stack pointer on LINK. -/
def State.startModule (s : State) (m : Byte) (supervisor : Bool) (phase : VmPhase) : State :=
  let t := (((s.setPs { s.ps with m := supervisor }).setCm m).setPc 0)
  ((t.setLink (⟨.vm, none, t.curStack, t.sp⟩ :: t.link)).setRun .running).setVmPhase phase

/-- The VM's sleep state: supervisor mode, no instruction fetched (R302(c)). -/
def State.enterVmSleep (s : State) : State :=
  (s.setPs { s.ps with m := true }).setRun .vmSleep

/-- After the kernel has returned: the default application in user mode, else the VM's sleep state (R300). -/
def State.afterKernel (s : State) : State :=
  match s.defaultApp with
  | some a => s.startModule a false .application
  | none => s.enterVmSleep

/-- Return to the VM (R302(a), (b)): boot goes on after the kernel; after the application the VM sleeps if a kernel
is installed and halts if not. -/
def State.returnToVm (s : State) : State :=
  match s.vmPhase with
  | .kernel => s.afterKernel
  | .application =>
    match s.kernel with
    | some _ => s.enterVmSleep
    | none => s.setRun .halted

/-! ### Boot -/

/-- A BSS base inside data space, from a free number: "a block of MODS[m].bss_size bytes of data space" (R300; log 4). -/
def bssBaseFrom (dataSize : Nat) (size : Word) (free : Nat) : Addr :=
  BitVec.ofNat 24 (free % (dataSize + 1 - size.toNat))

/-- Assign the BSS blocks again, at places the spec leaves open (R305; log 4). -/
def placeBss (dataSize boot : Nat) (mods : List Module) : List Module :=
  mods.mapIdx fun m x => { x with bssBase := bssBaseFrom dataSize x.bssSize (Config.bssPlace boot m) }

/-- What boot sets before any module runs (R300, R305): SSP and USP cleared; T, I, B, SM 0; LINK, PENDING empty; R0
to R7, FP, AS, data space and the BSS places take values the spec leaves open (free values, log 4). Code space, the
registry, the parameters, the IO record and the environment's inputs are kept. -/
def State.bootClear (s : State) : State :=
  let boot := s.boots + 1
  { s with
    regs := Vector.ofFn fun n => Config.bootReg boot n.val
    fp := Config.bootFp boot
    flags := Flags.ofByte (Config.bootAs boot)
    ssp := 0
    usp := 0
    ps := ⟨true, false, false, false, false⟩
    pc := 0
    cm := 0
    link := []
    pending := []
    run := .halted
    vmPhase := .application
    data := []
    mods := placeBss s.platform.dataSize boot s.mods
    boots := boot }

/-- The boot sequence, run by RESET and by every reboot (R300, R305). -/
def State.reboot (s : State) : State :=
  let t := s.bootClear
  match t.kernel with
  | some k => t.startModule k true .kernel
  | none =>
    match t.defaultApp with
    | some a => t.startModule a true .application
    | none => t

end Sys2Proof.Machine
end

