-- ==== Sys2Proof/Machine/Ops.lean ====
section
/-! DEFINITION. The named operations over memory, stacks, modules, IO and exceptions that the meanings use: the
primitives of 00_scope.md R10. An operation answers a value or says why the instruction is abandoned. -/

namespace Sys2Proof.Machine

/-- What a step answers. -/
abbrev Result := Host.Outcome State Fault Refusal

/-- The five exceptions (60_exceptions.md R261). -/
inductive Exc
  | divZero
  | badInstr
  | addrErr
  | stackErr
  | modNotFound
  deriving DecidableEq, Repr

/-- The kernel export number of an exception (R261). -/
def Exc.num : Exc → Nat
  | .divZero => 0
  | .badInstr => 1
  | .addrErr => 2
  | .stackErr => 3
  | .modNotFound => 4

/-- Why an instruction is abandoned, with no effect (00_scope.md R11, 60_exceptions.md R274). -/
inductive Abort
  /-- `raise E(k)`. -/
  | raise (e : Exc)
  /-- The module table is outside the spec (log 7). -/
  | fault (f : Fault)
  deriving DecidableEq, Repr

/-- A value, or the reason there is none. -/
abbrev Try (α : Type) := Except Abort α

/-- A check that raises an exception when it fails. -/
def need (e : Exc) (ok : Bool) : Try Unit := if ok then .ok () else .error (.raise e)

/-! ### Bytes of data and code space -/

/-- The byte at a real data address; one that nothing has written is a free value (10_state.md R43; log 5). -/
def State.dataByte (s : State) (a : Nat) : Byte :=
  (Memory.read .data s.data a).getD (Config.unwrittenByte s.boots a)

/-- Store a byte at a real data address. -/
def State.putData (s : State) (a : Nat) (v : Byte) : State :=
  s.setData (Memory.write .data s.data a v)

/-- The byte at a real code address; an erased one is 0x00 (45_control.md R230; log 6). -/
def State.codeByte (s : State) (a : Nat) : Byte :=
  (Memory.read .code s.code a).getD 0

/-! ### The address maps -/

/-- A real data address, if data space has it (20_memory.md R64); else AddrErr: "data or IO address beyond the space"
(92_eei_decisions.md D28, 93_implementation_defined.md U28). -/
def State.inData (s : State) (a : Nat) : Try Nat := do
  need .addrErr (decide (a < s.platform.dataSize))
  .ok a

/-- The data spaces a program can address (20_memory.md R66): the current module's BSS, and the two stacks. -/
inductive Space
  | bss
  | stack (k : StackId)
  deriving DecidableEq, Repr

/-- `cell(a)` for BSS (R67): `bss_base + a`, checked in user mode against the module's BSS size, in both modes against
DATA_SIZE; either raises AddrErr. No space has a cell at 0x10000, so a second byte there raises AddrErr in supervisor
mode too (R66, 92_eei_decisions.md D15; log 25). A CM that names no module has no BSS block (log 15). -/
def State.bssCell (s : State) (a : Nat) : Try Nat :=
  match s.curModule with
  | none => .error (.raise .addrErr)
  | some m => do
    need .addrErr (decide (a < 0x10000) && (s.ps.m || decide (a < m.bssSize.toNat)))
    s.inData (m.bssBase.toNat + a)

/-- `cell(i)` for a stack (R68): `TOS_k - i`, for i below SIZE_k in both modes, else StackErr. A platform whose deepest
cell would lie below address 0 has no byte there: AddrErr, as for any address outside data space (log 7). -/
def State.stackCell (s : State) (k : StackId) (i : Nat) : Try Nat := do
  need .stackErr (decide (i < s.platform.stackSize k))
  need .addrErr (decide (i ≤ (s.platform.tos k).toNat))
  s.inData ((s.platform.tos k).toNat - i)

/-- The real address of a program address (R66). -/
def State.cell (s : State) (sp : Space) (a : Nat) : Try Nat :=
  match sp with
  | .bss => s.bssCell a
  | .stack k => s.stackCell k a

/-! ### Byte order (R65, R66) -/

/-- The byte of a word that goes to `cell(a)`: the low one with B = 0, the high one with B = 1. -/
def firstByte (be : Bool) (v : Word) : Byte := if be then v.extractLsb' 8 8 else v.extractLsb' 0 8

/-- The byte of a word that goes to `cell(a + 1)`. -/
def secondByte (be : Bool) (v : Word) : Byte := if be then v.extractLsb' 0 8 else v.extractLsb' 8 8

/-- The word read from `cell(a)` and `cell(a + 1)`. -/
def joinBytes (be : Bool) (first second : Byte) : Word := if be then first ++ second else second ++ first

/-- `MemRead(space, a, n)`: both cells are checked before either is read; `a + 1` does not wrap (R66). -/
def State.memRead (s : State) (sp : Space) (a : Nat) : (sz : Size) → Try (BitVec sz.bits)
  | .byte => do
    let c ← s.cell sp a
    .ok (s.dataByte c)
  | .word => do
    let c0 ← s.cell sp a
    let c1 ← s.cell sp (a + 1)
    .ok (joinBytes s.ps.b (s.dataByte c0) (s.dataByte c1))

/-- `MemWrite(space, a, n, v)`: both cells are checked before either is written (R66). -/
def State.memWrite (s : State) (sp : Space) (a : Nat) : (sz : Size) → BitVec sz.bits → Try State
  | .byte, v => do
    let c ← s.cell sp a
    .ok (s.putData c v)
  | .word, v => do
    let c0 ← s.cell sp a
    let c1 ← s.cell sp (a + 1)
    .ok ((s.putData c0 (firstByte s.ps.b v)).putData c1 (secondByte s.ps.b v))

/-! ### The current stack -/

/-- `Push(n, v)` on the current stack: overflow check, write at index SP, then SP <- SP + n (R73). The new SP is kept
to its 16 bits (DEDUCED, log 14). -/
def State.push (s : State) (sz : Size) (v : BitVec sz.bits) : Try State := do
  need .stackErr (decide (s.sp.toNat + sz.bytes ≤ s.platform.stackSize s.curStack))
  let t ← s.memWrite (.stack s.curStack) s.sp.toNat sz v
  .ok (t.setSp s.curStack (s.sp + BitVec.ofNat 16 sz.bytes))

/-- `Pop(n)` on the current stack: underflow check, SP <- SP - n, then the read at index SP (R74). -/
def State.pop (s : State) (sz : Size) : Try (BitVec sz.bits × State) := do
  need .stackErr (decide (sz.bytes ≤ s.sp.toNat))
  let v ← s.memRead (.stack s.curStack) (s.sp.toNat - sz.bytes) sz
  .ok (v, s.setSp s.curStack (s.sp - BitVec.ofNat 16 sz.bytes))

/-! ### Fetch -/

/-- `Fetch(p)`: the code byte of the current module at offset p, range checked; a CM that names no module counts as
code size 0 (R62). -/
def State.fetch (s : State) (p : Word) : Try Byte :=
  match s.curModule with
  | none => .error (.raise .addrErr)
  | some m =>
    if p.toNat < m.codeSize.toNat then
      if m.codeBase.toNat + p.toNat < s.platform.codeSpaceSize then .ok (s.codeByte (m.codeBase.toNat + p.toNat))
      else .error (.fault .noCodeByte)
    else .error (.raise .addrErr)

/-- `n` bytes from offset `p` on, each fetched and checked; offsets wrap modulo 2^16 (R62). -/
def State.fetchMany (s : State) (p : Word) : Nat → Try (List Byte)
  | 0 => .ok []
  | n + 1 => do
    let b ← s.fetch p
    let rest ← s.fetchMany (p + 1) n
    .ok (b :: rest)

/-- `next` for an instruction of `len` bytes at PC: `(PC + L) mod 2^16` (10_state.md R25). -/
def State.nextPc (s : State) (len : Nat) : Word := s.pc + BitVec.ofNat 16 len

/-! ### Modules -/

/-- `Resolve(i, f)` (R81): the module and code offset of function f of import i of the current module. A CM that
names no module imports nothing (log 15). -/
def State.resolve (s : State) (i f : Nat) : Try (Byte × Word) :=
  match s.curModule.bind fun c => c.imports[i]? with
  | none => .error (.raise .modNotFound)
  | some nm =>
    match s.mods.findIdx? fun m => m.name == nm with
    | none => .error (.raise .modNotFound)
    | some k =>
      match s.mods[k]?.bind fun m => m.exports[f]? with
      | none => .error (.raise .addrErr)
      | some off => .ok (BitVec.ofNat 8 k, off)

/-- `CallModule(i, f)` (45_control.md R237): push the return offset, push a `lib` record with the SP after the push,
switch CM and PC. PS, the registers, FP and AS are unchanged. -/
def State.callModule (s : State) (i f : Nat) (next : Word) : Try State := do
  let target ← s.resolve i f
  let t ← s.push .word next
  .ok (((t.setLink (⟨.lib, some s.cm, t.curStack, t.sp⟩ :: t.link)).setCm target.1).setPc target.2)

/-- The link record RET matches: on top, on the current stack, with the current SP (R234). RET pops `lib` and `vm`
records only (10_state.md R41; DEDUCED for an `idle` record, log 10). -/
def State.matchingLink (s : State) : Option LinkRec :=
  match s.link with
  | [] => none
  | r :: _ => if r.stack = s.curStack ∧ r.sp = s.sp ∧ r.kind ≠ .idle then some r else none

/-- RET (R234): to the VM, to the calling module, or inside the module. -/
def State.returnFromSub (s : State) : Try State :=
  match s.matchingLink with
  | some ⟨.vm, _, _, _⟩ => .ok (s.setLink s.link.tail).returnToVm
  | some ⟨_, cm, _, _⟩ => do
    let p ← s.pop .word
    .ok (((p.2.setLink s.link.tail).setCm (cm.getD s.cm)).setPc p.1)
  | none => do
    let p ← s.pop .word
    .ok (p.2.setPc p.1)

/-! ### IO space -/

/-- The tag byte of a descriptor (60_exceptions.md R286). -/
def Descriptor.tag : Descriptor → Byte
  | .serialPort _ => 0x01
  | .other tag _ => tag

/-- The value bytes of a descriptor, as many as its length byte can count; the port base low byte first (R286). -/
def Descriptor.value : Descriptor → List Byte
  | .serialPort base => [base.extractLsb' 0 8, base.extractLsb' 8 8]
  | .other _ value => value.take 255

/-- The bytes of one descriptor: tag, length, value (R286). -/
def Descriptor.bytes (d : Descriptor) : List Byte := d.tag :: BitVec.ofNat 8 d.value.length :: d.value

/-- A descriptor list: tag 0x00, length 0 is "the last tag of the list", wherever it stands (R286). -/
def descriptorList : List Descriptor → List Byte
  | [] => [0, 0]
  | d :: rest => if d.tag = 0 then [0, 0] else d.bytes ++ descriptorList rest

/-- The bytes of the descriptor list, from IO address 0 on (R286). -/
def Platform.descriptorBytes (p : Platform) : List Byte := descriptorList p.descriptors

/-- A port access is inside IO space: else AddrErr (20_memory.md R70). -/
def State.portOk (s : State) (port : Nat) : Try Unit := need .addrErr (decide (port < s.platform.ioSize))

/-- Read one port: a constant byte inside the descriptor list, else a free value, recorded (R70; log 9). -/
def State.ioReadByte (s : State) (port : Nat) : Byte × State :=
  match s.platform.descriptorBytes[port]? with
  | some b => (b, s)
  | none =>
    let p := BitVec.ofNat 16 port
    let v := Config.ioRead s.ioLog.length p
    (v, s.setIoLog (s.ioLog ++ [.read p v]))

/-- Write one port: discarded inside the descriptor list, else handed to the peripheral and recorded (R70, R286). -/
def State.ioWriteByte (s : State) (port : Nat) (v : Byte) : State :=
  match s.platform.descriptorBytes[port]? with
  | some _ => s
  | none => s.setIoLog (s.ioLog ++ [.written (BitVec.ofNat 16 port) v])

/-- `MemRead(IO, port, n)`: all ports checked first, then read in order (R70, R274). -/
def State.ioRead (s : State) (port : Nat) : (sz : Size) → Try (BitVec sz.bits × State)
  | .byte => do
    s.portOk port
    .ok (s.ioReadByte port)
  | .word => do
    s.portOk port
    s.portOk (port + 1)
    let p0 := s.ioReadByte port
    let p1 := p0.2.ioReadByte (port + 1)
    .ok (joinBytes s.ps.b p0.1 p1.1, p1.2)

/-- `MemWrite(IO, port, n, v)`: all ports checked first, then written in order (R70, R274). -/
def State.ioWrite (s : State) (port : Nat) : (sz : Size) → BitVec sz.bits → Try State
  | .byte, v => do
    s.portOk port
    .ok (s.ioWriteByte port v)
  | .word, v => do
    s.portOk port
    s.portOk (port + 1)
    .ok ((s.ioWriteByte port (firstByte s.ps.b v)).ioWriteByte (port + 1) (secondByte s.ps.b v))

/-! ### Taking an exception, and returning from one -/

/-- What kind of event enters a handler (60_exceptions.md R260). -/
inductive EventKind
  /-- Faults 0 to 4 and traps 16 to 31: `PS.I` is kept. -/
  | faultOrTrap
  /-- An interrupt: `PS.I` is cleared (R271). -/
  | interrupt
  /-- An interrupt taken in the VM's sleep state: an `idle` record is pushed as well (70_reset_and_hazards.md R302(c)). -/
  | idleInterrupt
  deriving DecidableEq, Repr

/-- The kernel and the code offset of handler `k`, when a kernel is installed, exports number k, and the supervisor
stack has room for the 4-byte frame (R266, R269, R273). -/
def State.handler (s : State) (k : Nat) : Option (Byte × Word) :=
  match s.kernel with
  | none => none
  | some m =>
    match (s.moduleAt m).bind fun x => x.exports[k]? with
    | none => none
    | some off => if s.ssp.toNat + 4 ≤ s.platform.sizeS then some (m, off) else none

/-- PS in a handler: M set; I cleared by an interrupt; T, B, SM kept (R266). -/
def Status.onEntry (p : Status) (kind : EventKind) : Status :=
  { p with m := true, i := if kind = .faultOrTrap then p.i else false }

/-- The entry frame on the supervisor stack: the return PC, the old CM, the old PS (R266). -/
def State.pushFrame (s : State) (kind : EventKind) (retpc : Word) : Try State := do
  let a ← (s.setPs (s.ps.onEntry kind)).push .word retpc
  let b ← a.push .byte s.cm
  b.push .byte s.ps.toByte

/-- The `idle` record of an interrupt taken in the VM's sleep state, after its frame (R302(c)). -/
def State.linkOnEntry (s : State) (kind : EventKind) : State :=
  if kind = .idleInterrupt then s.setLink (⟨.idle, none, .sup, s.ssp⟩ :: s.link) else s

/-- `Enter(k, retpc)` (R266): the one entry procedure for faults, traps and interrupts. Without a kernel, without the
export, or without room for the frame, the system reboots. -/
def State.enter (s : State) (kind : EventKind) (k : Nat) (retpc : Word) : Result :=
  match s.handler k with
  | none => .next s.reboot
  | some h =>
    match s.pushFrame kind retpc with
    | .ok t => .next (((t.linkOnEntry kind).setCm h.1).setPc h.2)
    | .error (.raise _) => .next s.reboot
    | .error (.fault f) => .fault f

/-- `raise E(k)`: enter the handler of an exception with the faulting instruction's own address (R267). -/
def State.raise (s : State) (e : Exc) : Result := s.enter .faultOrTrap e.num s.pc

/-- RETI finds the `idle` record of the interrupt it returns from (46_system.md R250). -/
def State.idleReturn (s : State) : Bool :=
  match s.link with
  | [] => false
  | r :: _ => decide (r.kind = .idle) && decide (r.sp = s.ssp)

/-- RETI (R250): pops PS, CM and PC from the supervisor stack, or, with a matching `idle` record, PS alone and back
to the VM's sleep state. -/
def State.returnFromException (s : State) : Try State := do
  need .badInstr s.ps.m
  need .stackErr (decide (4 ≤ s.ssp.toNat))
  let ps ← s.pop .byte
  let cm ← ps.2.pop .byte
  let ra ← cm.2.pop .word
  let t := ra.2.setPs (Status.ofByte ps.1)
  if s.idleReturn then .ok (t.setLink s.link.tail).enterVmSleep
  else .ok ((t.setCm cm.1).setPc ra.1)

/-- End an instruction: its next state, or the exception it raises in the state it started from. -/
def State.finish (s : State) (r : Try State) : Result :=
  match r with
  | .ok t => .next t
  | .error (.raise e) => s.raise e
  | .error (.fault f) => .fault f

/-! ### Interrupts -/

/-- Add a number to the set PENDING, kept strictly rising. -/
def insertIrq (n : Nat) : List Nat → List Nat
  | [] => [n]
  | m :: rest => if n < m then n :: m :: rest else if n = m then m :: rest else m :: insertIrq n rest

/-- The environment's interrupts become pending; a number at or above NIRQ names no source (60_exceptions.md R270). -/
def addIrqs (nirq : Nat) (ns pending : List Nat) : List Nat :=
  ns.foldl (fun p n => if n < nirq then insertIrq n p else p) pending

/-- The environment's part of a step: its interrupts become pending (R270; log 8). -/
def State.arrive (s : State) : State :=
  match s.inputs with
  | [] => s
  | e :: rest => (s.setInputs rest).setPending (addIrqs s.platform.nirq e.irqs s.pending)

/-- Whether the environment resets the machine at this step (R289; log 8). -/
def State.outsideReset (s : State) : Bool :=
  match s.inputs with
  | [] => false
  | e :: _ => e.reset

/-- An interrupt is taken: `PS.I = 1`, one is pending, and the machine is not halted (R271, R302). -/
def State.interruptReady (s : State) : Bool :=
  s.ps.i && !s.pending.isEmpty && decide (s.run ≠ .halted)

/-- Take the least pending interrupt (R271); in the VM's sleep state with PC 0 and the old CM recorded as KERNEL
(70_reset_and_hazards.md R302(c)). -/
def State.takeInterrupt (s : State) : Result :=
  match s.pending with
  | [] => .next s
  | n :: rest =>
    let t := (s.setPending rest).setRun .running
    match s.run with
    | .vmSleep => (t.setCm (s.kernel.getD s.cm)).enter .idleInterrupt (32 + n) 0
    | _ => t.enter .interrupt (32 + n) s.pc

end Sys2Proof.Machine
end

