-- ==== Sys2Proof/Machine/Operands.lean ====
section
/-! DEFINITION. Every operand form: general registers and pairs (10_state.md R22), special registers (R36), base
registers and effective addresses (44_load_store_io.md R210 to R213), ports (R216). -/

namespace Sys2Proof

/-! ### Operands and immediates by their own form -/

/-- The destination is AS itself: its written value stands, no flag update follows (R28). -/
def Operand.isAs : Operand → Bool
  | .special .as => true
  | _ => false

/-- The size TESTBC gives its target: 8 bits for a general register, its own width for a special one (43_bit.md R206). -/
def Operand.ownSize : Operand → Size
  | .gp _ => .byte
  | .special r => r.size.getD .byte

/-- The displacement of Bcc: sign-extended from 8 bits, or 16 bits (R112). -/
def Imm.displacement : Imm → Word
  | .short v => v.signExtend 16
  | .long v => v

/-- The index of LOAD, STORE and IOCTL: 0, sign-extended from 8 bits, or 16 bits (R112, 44_load_store_io.md R210). -/
def Index.value : Index → Word
  | .none => 0
  | .short v => v.signExtend 16
  | .long v => v

end Sys2Proof

namespace Sys2Proof.Machine

/-! ### General registers -/

/-- `R[n]`. -/
def State.reg (s : State) (n : RegNum) : Byte := s.regs[n.toNat]'n.isLt

/-- `R[n] <- v`. -/
def State.setReg (s : State) (n : RegNum) (v : Byte) : State := s.setRegs (s.regs.set n.toNat v n.isLt)

/-- The even register of the pair a number names: its lowest bit is ignored (R22). -/
def evenReg (n : RegNum) : RegNum := n &&& 6

/-- The odd register of the pair. -/
def oddReg (n : RegNum) : RegNum := (n &&& 6) + 1

/-- `W[n]`: the odd register is the high byte (R21). -/
def State.pair (s : State) (n : RegNum) : Word := s.reg (oddReg n) ++ s.reg (evenReg n)

/-- `W[n] <- v`. -/
def State.setPair (s : State) (n : RegNum) (v : Word) : State :=
  (s.setReg (evenReg n) (v.extractLsb' 0 8)).setReg (oddReg n) (v.extractLsb' 8 8)

/-- `GP(n, s)`, read (R22). -/
def State.gp (s : State) (n : RegNum) : (sz : Size) → BitVec sz.bits
  | .byte => s.reg n
  | .word => s.pair n

/-- `GP(n, s) <- v` (R22). -/
def State.setGp (s : State) (n : RegNum) : (sz : Size) → BitVec sz.bits → State
  | .byte, v => s.setReg n v
  | .word, v => s.setPair n v

/-! ### Special registers and operands -/

/-- Whether an operand is read only, or written (and perhaps read). -/
inductive Role
  | source
  | dest
  deriving DecidableEq, Repr

/-- The checks of R36 (a) to (d), each of which raises BadInstr: the register exists, its size matches, PS only in
supervisor mode, CM not as a destination. -/
def State.operandOk (s : State) (role : Role) (sz : Size) : Operand → Bool
  | .gp _ => true
  | .special r =>
    (r.size == some sz) && (decide (r ≠ .ps) || s.ps.m) && (decide (r ≠ .cm) || decide (role = .source))

/-- The value of a special register, zero-extended to 16 bits (R36): PC reads `next`, SP is SSP or USP by mode, AS
and PS are masked. -/
def State.special (s : State) (next : Word) : Special → Word
  | .pc => next
  | .sp => s.sp
  | .usp => s.usp
  | .fp => s.fp
  | .as => s.flags.toByte.setWidth 16
  | .ps => s.ps.toByte.setWidth 16
  | .cm => s.cm.setWidth 16
  | .reserved => 0

/-- Write a special register (R36): PC is a jump, SP writes SSP or USP by mode, AS and PS discard the bits that are
not there; CM and number 7 are never reached past `operandOk`. -/
def State.setSpecial (s : State) (v : Word) : Special → State
  | .pc => s.setPc v
  | .sp => s.setSp s.curStack v
  | .usp => s.setUsp v
  | .fp => s.setFp v
  | .as => s.setFlags (Flags.ofByte (v.setWidth 8))
  | .ps => s.setPs (Status.ofByte (v.setWidth 8))
  | .cm | .reserved => s

/-- `OP(m, n, s)`, read; `next` is the address after the instruction (R36). -/
def State.operand (s : State) (next : Word) (sz : Size) : Operand → BitVec sz.bits
  | .gp n => s.gp n sz
  | .special r => (s.special next r).setWidth sz.bits

/-- `OP(m, n, s) <- v`, then `PC <- next` unless the operand is PC (R25, R36). -/
def State.writeOperand (s : State) (next : Word) (sz : Size) (v : BitVec sz.bits) : Operand → State
  | .gp n => (s.setPc next).setGp n sz v
  | .special r => (s.setPc next).setSpecial (v.setWidth 16) r

/-! ### Immediates -/

/-- A literal of 4 bits, zero-extended to the operand width (30_encoding.md R112). -/
def literal (sz : Size) (v : BitVec 4) : BitVec sz.bits := v.setWidth sz.bits

/-! ### Memory operands -/

/-- The base register of LOAD and STORE: the space it selects and its value; BadInstr for any other special register
or for DB = 0 on SP, USP, FP (R211). -/
def State.base (s : State) (db : Size) : Operand → Try (Space × Word)
  | .gp n => .ok (.bss, (s.gp n db).setWidth 16)
  | .special r =>
    match r, db with
    | .sp, .word => .ok (.stack s.curStack, s.sp)
    | .usp, .word => .ok (.stack .usr, s.usp)
    | .fp, .word => .ok (.stack s.curStack, s.fp)
    | _, _ => .error (.raise .badInstr)

/-- `ea = (base + index) mod 2^16` (R212). -/
def effectiveAddress (base : Word) (idx : Index) : Nat := (base + Index.value idx).toNat

/-- `StackOp`: stack mode on, no index, base register SP (R213). -/
def State.stackOp (s : State) (base : Operand) (idx : Index) : Bool :=
  s.ps.sm && decide (idx = .none) && decide (base = .special .sp)

/-- The port base of IOCTL: a general register, zero-extended; BadInstr for MS = 1 (R216). -/
def State.portBase (s : State) (db : Size) : Operand → Try Word
  | .gp n => .ok ((s.gp n db).setWidth 16)
  | .special _ => .error (.raise .badInstr)

/-- The minuend and the subtrahend of the subtract family, from the source and the destination operand (41_arithmetic.md R160). -/
def State.subOperands (s : State) {w : Nat} (src dst : BitVec w) : BitVec w × BitVec w :=
  match s.platform.subOrder with
  | .srcMinusDst => (src, dst)
  | .dstMinusSrc => (dst, src)

end Sys2Proof.Machine
end

