-- ==== Sys2Proof/Machine/Arithmetic.lean ====
section
/-! DEFINITION. Arithmetic instructions (41_arithmetic.md R160 to R172). -/

namespace Sys2Proof.Machine

/-- End of an arithmetic instruction: the result to a general register, all four flags, PC past the instruction. -/
def State.putResult (s : State) (sz : Size) (rd : RegNum) (len : Nat) (p : BitVec sz.bits × Flags) : State :=
  ((s.setPc (s.nextPc len)).setGp rd sz p.1).setFlags p.2

/-- The same with Z and N alone; C and V kept (10_state.md R28). -/
def State.putResultZN (s : State) (sz : Size) (rd : RegNum) (len : Nat) (v : BitVec sz.bits) : State :=
  s.putResult sz rd len (v, s.flags.setZN v)

/-- ADD: `RS + RD -> RD` (R161). -/
def execAdd (sz : Size) (rd rs : RegNum) (s : State) : Result :=
  .next (s.putResult sz rd 2 (addFlags (s.gp rd sz) (s.gp rs sz) false))

/-- ADDC: `RS + RD + C -> RD` (R162). -/
def execAddc (sz : Size) (rd rs : RegNum) (s : State) : Result :=
  .next (s.putResult sz rd 2 (addFlags (s.gp rd sz) (s.gp rs sz) s.flags.c))

/-- The difference of a source and a destination operand in the order SUB_ORDER (R160, R163). -/
def State.difference (s : State) {w : Nat} (src dst : BitVec w) (c : Bool) : BitVec w × Flags :=
  subFlags (s.subOperands src dst).1 (s.subOperands src dst).2 c

/-- SUB: `RS - RD -> RD` under the default SUB_ORDER (R163). -/
def execSub (sz : Size) (rd rs : RegNum) (s : State) : Result :=
  .next (s.putResult sz rd 2 (s.difference (s.gp rs sz) (s.gp rd sz) false))

/-- SUBB: `RS - RD - C -> RD` (R164). -/
def execSubb (sz : Size) (rd rs : RegNum) (s : State) : Result :=
  .next (s.putResult sz rd 2 (s.difference (s.gp rs sz) (s.gp rd sz) s.flags.c))

/-- TEST: the flags of SUB, no register written (R165). -/
def execTest (sz : Size) (rd rs : RegNum) (s : State) : Result :=
  .next ((s.setPc (s.nextPc 2)).setFlags (s.difference (s.gp rs sz) (s.gp rd sz) false).2)

/-- TESTC: TEST with the constant as source operand; the flags are updated even when AS is tested (R166). -/
def execTestc (d : Operand) (c : Imm) (s : State) : Result :=
  s.finish do
    need .badInstr (s.operandOk .source c.size d)
    let next := s.nextPc (1 + c.bytes)
    .ok ((s.setPc next).setFlags (s.difference c.value (s.operand next c.size d) false).2)

/-- CMPL: two's complement of RD in place, Z and N from the result (R167). -/
def execCmpl (sz : Size) (rd : RegNum) (s : State) : Result :=
  .next (s.putResultZN sz rd 2 ((s.gp rd sz ^^^ BitVec.allOnes sz.bits) + 1))

/-- ADDQ: `RD + Val -> RD` (R168). -/
def execAddq (sz : Size) (rd : RegNum) (val : BitVec 4) (s : State) : Result :=
  .next (s.putResult sz rd 2 (addFlags (s.gp rd sz) (literal sz val) false))

/-- SUBQ: SUB with the literal as source operand (R169). -/
def execSubq (sz : Size) (rd : RegNum) (val : BitVec 4) (s : State) : Result :=
  .next (s.putResult sz rd 2 (s.difference (literal sz val) (s.gp rd sz) false))

/-- MULQ: `RD * Val -> RD`, cut to the operand width, Z and N from the result (R172). -/
def execMulq (sz : Size) (rd : RegNum) (val : BitVec 4) (s : State) : Result :=
  .next (s.putResultZN sz rd 2 (BitVec.ofNat sz.bits ((s.gp rd sz).toNat * val.toNat)))

/-- MUL: unsigned; W = 0 cuts the product to RD's width, W = 1 with an 8-bit RD puts 16 bits in the pair that holds
RD; W = 1 with SD = 1 is reserved (R170). -/
def execMul (sd : Size) (wide : Bool) (ss : Size) (rd rs : RegNum) (s : State) : Result :=
  s.finish do
    need .badInstr (wideWf sd wide)
    let p := (s.gp rd sd).toNat * (s.gp rs ss).toNat
    if wide then .ok (s.putResultZN .word rd 2 (BitVec.ofNat 16 p))
    else .ok (s.putResultZN sd rd 2 (BitVec.ofNat sd.bits p))

/-- DIV: unsigned RD / RS; W = 0 the quotient to RD; W = 1 with an 8-bit RD the quotient to the even and the remainder
to the odd register of the pair; Z and N from the quotient; a zero divisor raises DivZero (R171). -/
def execDiv (sd : Size) (wide : Bool) (ss : Size) (rd rs : RegNum) (s : State) : Result :=
  s.finish do
    need .badInstr (wideWf sd wide)
    let a := (s.gp rd sd).toNat
    let b := (s.gp rs ss).toNat
    need .divZero (decide (b ≠ 0))
    if wide then
      let q := BitVec.ofNat 8 (a / b)
      let t := s.setPc (s.nextPc 2)
      .ok (((t.setReg (evenReg rd) q).setReg (oddReg rd) (BitVec.ofNat 8 (a % b))).setFlags (s.flags.setZN q))
    else .ok (s.putResultZN sd rd 2 (BitVec.ofNat sd.bits (a / b)))

end Sys2Proof.Machine
end

