-- ==== Sys2Proof/Machine/BitOps.lean ====
section
/-! DEFINITION. Bit instructions (43_bit.md R200 to R206). -/

namespace Sys2Proof.Machine

/-- Clear or set bit `i` of a target; an index at or above the width changes nothing (R200, R201, R203). -/
def State.changeBit (s : State) (value : Bool) (sd : Size) (d : Operand) (i : Nat) : Try State := do
  need .badInstr (s.operandOk .dest sd d)
  let next := s.nextPc 2
  let t := s.operand next sd d
  let mask := BitVec.twoPow sd.bits i
  if i < sd.bits then .ok (s.writeOperand next sd (if value then t ||| mask else t &&& ~~~mask) d)
  else .ok (s.setPc next)

/-- Z from bit `i` of a target, read as 0 at or above the width; C, N, V kept (R200, R205). -/
def State.testBit (s : State) (sd : Size) (d : Operand) (i : Nat) : Try State := do
  need .badInstr (s.operandOk .source sd d)
  let next := s.nextPc 2
  let t := s.operand next sd d
  .ok ((s.setPc next).setFlags { s.flags with z := !t.getLsbD i })

/-- CLRB, index in a register (R201). -/
def execClrb (sd : Size) (d : Operand) (ss : Size) (rn : RegNum) (s : State) : Result :=
  s.finish (s.changeBit false sd d (s.gp rn ss).toNat)

/-- CLRBC, index in a constant (R202). -/
def execClrbc (sd : Size) (d : Operand) (bits : BitVec 4) (s : State) : Result :=
  s.finish (s.changeBit false sd d bits.toNat)

/-- SETB, index in a register (R203). -/
def execSetb (sd : Size) (d : Operand) (ss : Size) (rn : RegNum) (s : State) : Result :=
  s.finish (s.changeBit true sd d (s.gp rn ss).toNat)

/-- SETBC, index in a constant (R204). -/
def execSetbc (sd : Size) (d : Operand) (bits : BitVec 4) (s : State) : Result :=
  s.finish (s.changeBit true sd d bits.toNat)

/-- TESTB, index in an 8-bit register (R205). -/
def execTestb (sd : Size) (d : Operand) (rn : RegNum) (s : State) : Result :=
  s.finish (s.testBit sd d (s.reg rn).toNat)

/-- TESTBC, index in a constant; the target has its own width (R206). -/
def execTestbc (d : Operand) (bits : BitVec 4) (s : State) : Result :=
  s.finish (s.testBit d.ownSize d bits.toNat)

end Sys2Proof.Machine
end

