-- ==== Sys2Proof/Machine/Control.lean ====
section
/-! DEFINITION. Control transfer instructions (45_control.md R230 to R238). -/

namespace Sys2Proof.Machine

/-- NOP (R230). -/
def execNop (s : State) : Result := .next (s.setPc (s.nextPc 1))

/-- Bcc: relative to `next`; with L = 1 the return address is pushed when the branch is taken (R232). -/
def execBcc (link : Bool) (cc : Cond) (disp : Imm) (s : State) : Result :=
  s.finish do
    need .badInstr (decide (cc ≠ .reserved))
    let next := s.nextPc (1 + disp.bytes)
    if s.flags.cond cc then
      let t ← if link then s.push .word next else .ok s
      .ok (t.setPc (next + disp.displacement))
    else .ok (s.setPc next)

/-- JSR: push `next`, then the register, zero-extended, to PC (R233). -/
def execJsr (sz : Size) (rd : RegNum) (s : State) : Result :=
  s.finish do
    let t ← s.push .word (s.nextPc 2)
    .ok (t.setPc ((s.gp rd sz).setWidth 16))

/-- RET (R234). -/
def execRet (s : State) : Result := s.finish s.returnFromSub

/-- LIBCALL: import index 0 to 15, function number 0 to 63 (R235). -/
def execLibcall (imp : BitVec 4) (fn : BitVec 6) (s : State) : Result :=
  s.finish (s.callModule imp.toNat fn.toNat (s.nextPc 2))

/-- LIBCALLX: import index and function number 0 to 255 (R236). -/
def execLibcallx (imp fn : Byte) (s : State) : Result :=
  s.finish (s.callModule imp.toNat fn.toNat (s.nextPc 3))

end Sys2Proof.Machine
end

