-- ==== Sys2Proof/Machine/LoadStore.lean ====
section
/-! DEFINITION. Memory and IO instructions (44_load_store_io.md R210 to R218). -/

namespace Sys2Proof.Machine

/-- LOAD: a pop in stack mode, else a read at the effective address (R214). -/
def execLoad (sz : Size) (d : Operand) (db : Size) (base : Operand) (idx : Index) (s : State) : Result :=
  s.finish do
    need .badInstr (s.operandOk .dest sz d)
    let b ← s.base db base
    let next := s.nextPc (2 + idx.bytes)
    if s.stackOp base idx then
      let p ← s.pop sz
      .ok (p.2.writeOperand next sz p.1 d)
    else
      let v ← s.memRead b.1 (effectiveAddress b.2 idx) sz
      .ok (s.writeOperand next sz v d)

/-- STORE: a push in stack mode, else a write at the effective address (R215). -/
def execStore (sz : Size) (d : Operand) (db : Size) (base : Operand) (idx : Index) (s : State) : Result :=
  s.finish do
    need .badInstr (s.operandOk .source sz d)
    let b ← s.base db base
    let next := s.nextPc (2 + idx.bytes)
    let v := s.operand next sz d
    if s.stackOp base idx then
      let t ← s.push sz v
      .ok (t.setPc next)
    else
      let t ← s.memWrite b.1 (effectiveAddress b.2 idx) sz v
      .ok (t.setPc next)

/-- IOCTL in: supervisor mode only; the data register takes the bytes at the port (R216). -/
def execIoctlIn (sz : Size) (d : Operand) (db : Size) (base : Operand) (idx : Index) (s : State) : Result :=
  s.finish do
    need .badInstr s.ps.m
    let b ← s.portBase db base
    need .badInstr (s.operandOk .dest sz d)
    let p ← s.ioRead (effectiveAddress b idx) sz
    .ok (p.2.writeOperand (s.nextPc (2 + idx.bytes)) sz p.1 d)

/-- IOCTL out: supervisor mode only; the data register's bytes to the port (R217). -/
def execIoctlOut (sz : Size) (d : Operand) (db : Size) (base : Operand) (idx : Index) (s : State) : Result :=
  s.finish do
    need .badInstr s.ps.m
    let b ← s.portBase db base
    need .badInstr (s.operandOk .source sz d)
    let next := s.nextPc (2 + idx.bytes)
    let t ← s.ioWrite (effectiveAddress b idx) sz (s.operand next sz d)
    .ok (t.setPc next)

end Sys2Proof.Machine
end

