-- ==== Sys2Proof/Machine/MoveLogic.lean ====
section
/-! DEFINITION. Move and logic instructions (40_move_logic.md R140 to R147). -/

namespace Sys2Proof.Machine

/-- The decode-time checks of format FRR with mode bits, made for both operands before anything is read (R140). -/
def State.checkFrr (s : State) (sz : Size) (d r : Operand) : Try Unit :=
  need .badInstr (s.operandOk .dest sz d && s.operandOk .source sz r)

/-- Z and N from a result, C and V kept; not when the destination is AS (R142, 10_state.md R28). -/
def State.setZNUnlessAs (s : State) (d : Operand) {w : Nat} (r : BitVec w) : State :=
  if d.isAs then s else s.setFlags (s.flags.setZN r)

/-- MOV: `RS -> RD`, no flags (R141). -/
def execMov (sz : Size) (d r : Operand) (s : State) : Result :=
  s.finish do
    s.checkFrr sz d r
    .ok (s.writeOperand (s.nextPc 2) sz (s.operand (s.nextPc 2) sz r) d)

/-- XOR: `RS XOR RD -> RD`, Z and N from the result (R142). -/
def execXor (sz : Size) (d r : Operand) (s : State) : Result :=
  s.finish do
    s.checkFrr sz d r
    let v := s.operand (s.nextPc 2) sz d ^^^ s.operand (s.nextPc 2) sz r
    .ok ((s.writeOperand (s.nextPc 2) sz v d).setZNUnlessAs d v)

/-- AND: `RS AND RD -> RD`, Z and N from the result (R143). -/
def execAnd (sz : Size) (d r : Operand) (s : State) : Result :=
  s.finish do
    s.checkFrr sz d r
    let v := s.operand (s.nextPc 2) sz d &&& s.operand (s.nextPc 2) sz r
    .ok ((s.writeOperand (s.nextPc 2) sz v d).setZNUnlessAs d v)

/-- OR: `RS OR RD -> RD`, Z and N from the result (R144). -/
def execOr (sz : Size) (d r : Operand) (s : State) : Result :=
  s.finish do
    s.checkFrr sz d r
    let v := s.operand (s.nextPc 2) sz d ||| s.operand (s.nextPc 2) sz r
    .ok ((s.writeOperand (s.nextPc 2) sz v d).setZNUnlessAs d v)

/-- MOVC: the constant to the register, no flags; W sizes both (R145). -/
def execMovc (d : Operand) (c : Imm) (s : State) : Result :=
  s.finish do
    need .badInstr (s.operandOk .dest c.size d)
    .ok (s.writeOperand (s.nextPc (1 + c.bytes)) c.size c.value d)

/-- `v[3:0] || v[7:4]` (R146). -/
def swapNibbles (v : Byte) : Byte := v.extractLsb' 0 4 ++ v.extractLsb' 4 4

/-- SWAP: S = 0 swaps the nibbles of RS into RD; S = 1 exchanges the pairs W[RD] and W[RS]; no flags (R146). -/
def execSwap (sz : Size) (rd rs : RegNum) (s : State) : Result :=
  let t := s.setPc (s.nextPc 2)
  match sz with
  | .byte => .next (t.setReg rd (swapNibbles (s.reg rs)))
  | .word => .next ((t.setPair rd (s.pair rs)).setPair rs (s.pair rd))

/-- SEXT: the odd register of the pair becomes the sign of the even one; no flags (R147). -/
def execSext (rd : RegNum) (s : State) : Result :=
  .next ((s.setPc (s.nextPc 2)).setReg (oddReg rd) (if (s.reg (evenReg rd)).msb then 0xFF else 0x00))

end Sys2Proof.Machine
end

