-- ==== Sys2Proof/Machine/ShiftRotate.lean ====
section
/-! DEFINITION. Shift and rotate instructions (42_shift_rotate.md R190 to R194). -/

namespace Sys2Proof.Machine

/-- The common end: the register moved `n` places, Z and N, C when Y = 1 and n is at least 1 (R190). -/
def State.shiftBy (s : State) (op : ShiftOp) (y : Bool) (sd : Size) (dir : Direction) (rd : RegNum) (n : Nat) : State :=
  let p := shiftClosed op dir (s.gp rd sd) s.flags.c n
  ((s.setPc (s.nextPc 2)).setGp rd sd p.1).setFlags (s.flags.afterShift y n p.1 p.2)

/-- Plain rotate or rotate through carry, by Y (R192). -/
def rotateOp (y : Bool) : ShiftOp := if y then .rotateCarry else .rotate

/-- SHIFT, count in a register (R191). -/
def execShift (y : Bool) (sd : Size) (dir : Direction) (ss : Size) (rd rs : RegNum) (s : State) : Result :=
  .next (s.shiftBy .shift y sd dir rd (s.gp rs ss).toNat)

/-- ROT, count in a register (R192). -/
def execRot (y : Bool) (sd : Size) (dir : Direction) (ss : Size) (rd rs : RegNum) (s : State) : Result :=
  .next (s.shiftBy (rotateOp y) y sd dir rd (s.gp rs ss).toNat)

/-- SHIFTC, count in a constant (R193). -/
def execShiftc (y : Bool) (sd : Size) (dir : Direction) (rd : RegNum) (bits : BitVec 4) (s : State) : Result :=
  .next (s.shiftBy .shift y sd dir rd bits.toNat)

/-- ROTC, count in a constant (R194). -/
def execRotc (y : Bool) (sd : Size) (dir : Direction) (rd : RegNum) (bits : BitVec 4) (s : State) : Result :=
  .next (s.shiftBy (rotateOp y) y sd dir rd bits.toNat)

end Sys2Proof.Machine
end

