-- ==== Sys2Proof/Machine/System.lean ====
section
/-! DEFINITION. System instructions (46_system.md R250 to R253). -/

namespace Sys2Proof.Machine

/-- RETI (R250). -/
def execReti (s : State) : Result := s.finish s.returnFromException

/-- TRAP n: enter kernel export 16 + n with `next` as the saved PC (R251). -/
def execTrap (num : BitVec 4) (s : State) : Result := s.enter .faultOrTrap (16 + num.toNat) (s.nextPc 2)

/-- RESET: reboot, in both modes (R252). -/
def execReset (s : State) : Result := .next s.reboot

/-- SLEEP: past the instruction and asleep, in both modes (R253). -/
def execSleep (s : State) : Result := .next ((s.setPc (s.nextPc 2)).setRun .asleep)

end Sys2Proof.Machine
end

