-- ==== Sys2Proof/Machine/Dispatch.lean ====
section
/-! DEFINITION. The dispatch: one arm per constructor of `Instr`. -/

namespace Sys2Proof.Machine

def exec (i : Instr) (s : State) : Host.Outcome State Fault Refusal :=
  match i with
  | .nop => Sys2Proof.Machine.execNop s
  | .ret => Sys2Proof.Machine.execRet s
  | .reti => Sys2Proof.Machine.execReti s
  | .mov sz d r => Sys2Proof.Machine.execMov sz d r s
  | .xor sz d r => Sys2Proof.Machine.execXor sz d r s
  | .and sz d r => Sys2Proof.Machine.execAnd sz d r s
  | .or sz d r => Sys2Proof.Machine.execOr sz d r s
  | .add sz rd rs => Sys2Proof.Machine.execAdd sz rd rs s
  | .addc sz rd rs => Sys2Proof.Machine.execAddc sz rd rs s
  | .sub sz rd rs => Sys2Proof.Machine.execSub sz rd rs s
  | .subb sz rd rs => Sys2Proof.Machine.execSubb sz rd rs s
  | .test sz rd rs => Sys2Proof.Machine.execTest sz rd rs s
  | .swap sz rd rs => Sys2Proof.Machine.execSwap sz rd rs s
  | .mul sd wide ss rd rs => Sys2Proof.Machine.execMul sd wide ss rd rs s
  | .div sd wide ss rd rs => Sys2Proof.Machine.execDiv sd wide ss rd rs s
  | .shift y sd dir ss rd rs => Sys2Proof.Machine.execShift y sd dir ss rd rs s
  | .rot y sd dir ss rd rs => Sys2Proof.Machine.execRot y sd dir ss rd rs s
  | .shiftc y sd dir rd bits => Sys2Proof.Machine.execShiftc y sd dir rd bits s
  | .rotc y sd dir rd bits => Sys2Proof.Machine.execRotc y sd dir rd bits s
  | .clrb sd d ss rn => Sys2Proof.Machine.execClrb sd d ss rn s
  | .clrbc sd d bits => Sys2Proof.Machine.execClrbc sd d bits s
  | .setb sd d ss rn => Sys2Proof.Machine.execSetb sd d ss rn s
  | .setbc sd d bits => Sys2Proof.Machine.execSetbc sd d bits s
  | .testb sd d rn => Sys2Proof.Machine.execTestb sd d rn s
  | .testbc d bits => Sys2Proof.Machine.execTestbc d bits s
  | .sext rd => Sys2Proof.Machine.execSext rd s
  | .cmpl sz rd => Sys2Proof.Machine.execCmpl sz rd s
  | .jsr sz rd => Sys2Proof.Machine.execJsr sz rd s
  | .reset => Sys2Proof.Machine.execReset s
  | .sleep => Sys2Proof.Machine.execSleep s
  | .trap num => Sys2Proof.Machine.execTrap num s
  | .addq sz rd val => Sys2Proof.Machine.execAddq sz rd val s
  | .subq sz rd val => Sys2Proof.Machine.execSubq sz rd val s
  | .mulq sz rd val => Sys2Proof.Machine.execMulq sz rd val s
  | .libcallx imp fn => Sys2Proof.Machine.execLibcallx imp fn s
  | .libcall imp fn => Sys2Proof.Machine.execLibcall imp fn s
  | .load sz d db base idx => Sys2Proof.Machine.execLoad sz d db base idx s
  | .store sz d db base idx => Sys2Proof.Machine.execStore sz d db base idx s
  | .ioctlIn sz d db base idx => Sys2Proof.Machine.execIoctlIn sz d db base idx s
  | .ioctlOut sz d db base idx => Sys2Proof.Machine.execIoctlOut sz d db base idx s
  | .movc d c => Sys2Proof.Machine.execMovc d c s
  | .testc d c => Sys2Proof.Machine.execTestc d c s
  | .bcc link cc disp => Sys2Proof.Machine.execBcc link cc disp s

end Sys2Proof.Machine
end

