-- ==== Sys2Proof/Machine/Fetch.lean ====
section
/-! DEFINITION. Fetching an instruction's bytes (20_memory.md R62, 30_encoding.md R100), and placing an instruction
where the next step fetches it. -/

namespace Sys2Proof.Machine

/-- The bytes of the instruction at PC: b1, then b2 if there is one, then the rest, each fetched and checked (R100). -/
def State.fetchInstr (s : State) : Try (List Byte) := do
  let b1 ← s.fetch s.pc
  if hasSecondByte b1 then
    let b2 ← s.fetch (s.pc + 1)
    let rest ← s.fetchMany (s.pc + 2) (extraBytes b1 b2)
    .ok (b1 :: b2 :: rest)
  else .ok [b1]

/-! ### A program loaded from outside (log 18) -/

/-- A module with no code, to fill the table up to a number. -/
def emptyModule : Module := ⟨[0, 0, 0, 0, 0, 0, 0, 0], 0, 0, 0, 0, 0, [], []⟩

/-- The module table with a module numbered `n`. -/
def withModule (mods : List Module) (n : Nat) : List Module :=
  mods ++ List.replicate (n + 1 - mods.length) emptyModule

/-- Store bytes in code space, byte `k` at `base + ((p + k) mod 2^16)`. -/
def placeCode (code : Memory) (base : Nat) (p : Word) : List Byte → Memory
  | [] => code
  | b :: rest => placeCode (Memory.write .code code (base + p.toNat) b) base (p + 1) rest

/-- The code size that takes in four bytes from `p` on. -/
def codeSizeFor (size p : Word) : Word :=
  if p.toNat + 4 ≤ 65535 then (if size.toNat < p.toNat + 4 then p + 4 else size) else 65535

/-- Load four bytes at PC of the current module: the module exists and its code takes them in. -/
def State.loadCode (s : State) (bytes : List Byte) : State :=
  let n := s.cm.toNat
  let mods := withModule s.mods n
  let base := ((mods[n]?).map fun m => m.codeBase.toNat).getD 0
  { s with
    mods := mods.modify n fun m => { m with codeSize := codeSizeFor m.codeSize s.pc }
    code := placeCode s.code base s.pc bytes }

/-- Make the machine execute: a halted or sleeping machine runs the module CM names as one the VM started, with its
`vm` record on LINK (70_reset_and_hazards.md R301); no interrupt or reset comes first. -/
def State.beginRun (s : State) : State :=
  let t := (s.setInputs []).setPending []
  match s.run with
  | .running => t
  | .asleep => t.setRun .running
  | .vmSleep | .halted => (t.setLink (⟨.vm, none, t.curStack, t.sp⟩ :: t.link)).setRun .running

end Sys2Proof.Machine
end

