-- ==== Sys2Proof/Machine/Step.lean ====
section
/-! DEFINITION. One step: one instruction, or one event (70_reset_and_hazards.md R311). -/

namespace Sys2Proof.Machine

/-- Fetch, decode, execute. A fetch outside the module raises AddrErr; bytes that are no instruction raise BadInstr
(30_encoding.md R100, R116, R117; 60_exceptions.md R268). -/
def State.runInstr (s : State) : Result :=
  match s.fetchInstr with
  | .error (.raise e) => s.raise e
  | .error (.fault f) => .fault f
  | .ok bytes =>
    match decode bytes with
    | .ok p => exec p.1 s
    | .error _ => s.raise .badInstr

/-- One step: the environment's part; a reset from outside; else an interrupt that can be taken (60_exceptions.md R268,
R271); else an instruction, when the machine runs. An asleep, VM-sleeping or halted machine with nothing to take
stays as it is (46_system.md R253, 70_reset_and_hazards.md R302; log 13). -/
def step (s : State) : Host.Outcome State Fault Refusal :=
  if s.outsideReset then .next s.arrive.reboot
  else if s.arrive.interruptReady then s.arrive.takeInterrupt
  else
    match s.run with
    | .running => s.arrive.runInstr
    | .asleep | .vmSleep | .halted => .next s.arrive

/-- `s` with the instruction of the table word `w` stored where the next step fetches (log 17, log 18). -/
def State.withFetchWord (s : State) (nbits w : Nat) : State :=
  (s.loadCode (tableBytes nbits w)).beginRun

end Sys2Proof.Machine
end

