-- ==== Sys2Proof/Safety.lean ====
section
/-! DEFINITION. What counts as a sound machine, in the terms the claims use: platforms and module tables the spec
allows, the invariant every step keeps, which forms a mode may run, and what an instruction leaves alone. -/

namespace Sys2Proof

/-! ### Forms a mode may run -/

/-- The operand names PS (10_state.md R35). -/
def Operand.isPs : Operand → Bool
  | .special .ps => true
  | _ => false

/-- Forms user mode may not run: PS named as an operand, IOCTL, RETI (60_exceptions.md R281(a), (b), (e)). -/
def Instr.privileged : Instr → Bool
  | .mov _ d r | .xor _ d r | .and _ d r | .or _ d r => d.isPs || r.isPs
  | .clrb _ d _ _ | .clrbc _ d _ | .setb _ d _ _ | .setbc _ d _ | .testb _ d _ | .testbc d _ => d.isPs
  | .load _ d _ _ _ | .store _ d _ _ _ | .movc d _ | .testc d _ => d.isPs
  | .ioctlIn _ _ _ _ _ | .ioctlOut _ _ _ _ _ | .reti => true
  | .nop | .ret | .reset | .sleep | .trap _ | .sext _ | .cmpl _ _ | .jsr _ _ => false
  | .add _ _ _ | .addc _ _ _ | .sub _ _ _ | .subb _ _ _ | .test _ _ _ | .swap _ _ _ => false
  | .mul _ _ _ _ _ | .div _ _ _ _ _ => false
  | .shift _ _ _ _ _ _ | .rot _ _ _ _ _ _ | .shiftc _ _ _ _ _ | .rotc _ _ _ _ _ => false
  | .addq _ _ _ | .subq _ _ _ | .mulq _ _ _ | .libcallx _ _ | .libcall _ _ | .bcc _ _ _ => false

/-- No reserved field value (30_encoding.md R118(a) to (d)), and not closed to the mode (R118(a), (e)). -/
def Instr.allowed (i : Instr) (supervisor : Bool) : Bool :=
  i.wellFormed && (supervisor || !i.privileged)

/-- The instructions that name PS as a destination (R282, second and third row of writes). -/
def Instr.writesPs : Instr → Bool
  | .mov _ d _ | .xor _ d _ | .and _ d _ | .or _ d _ => d.isPs
  | .clrb _ d _ _ | .clrbc _ d _ | .setb _ d _ _ | .setbc _ d _ => d.isPs
  | .load _ d _ _ _ | .ioctlIn _ d _ _ _ | .movc d _ => d.isPs
  | .testb _ _ _ | .testbc _ _ | .store _ _ _ _ _ | .ioctlOut _ _ _ _ _ | .testc _ _ => false
  | .nop | .ret | .reti | .reset | .sleep | .trap _ | .sext _ | .cmpl _ _ | .jsr _ _ => false
  | .add _ _ _ | .addc _ _ _ | .sub _ _ _ | .subb _ _ _ | .test _ _ _ | .swap _ _ _ => false
  | .mul _ _ _ _ _ | .div _ _ _ _ _ => false
  | .shift _ _ _ _ _ _ | .rot _ _ _ _ _ _ | .shiftc _ _ _ _ _ | .rotc _ _ _ _ _ => false
  | .addq _ _ _ | .subq _ _ _ | .mulq _ _ _ | .libcallx _ _ | .libcall _ _ | .bcc _ _ _ => false

/-- The instructions whose own effect may change CM and LINK: LIBCALL, LIBCALLX, RET, RETI (10_state.md R37, R41). -/
def Instr.switchesModule : Instr → Bool
  | .libcall _ _ | .libcallx _ _ | .ret | .reti => true
  | .mov _ _ _ | .xor _ _ _ | .and _ _ _ | .or _ _ _ => false
  | .clrb _ _ _ _ | .clrbc _ _ _ | .setb _ _ _ _ | .setbc _ _ _ | .testb _ _ _ | .testbc _ _ => false
  | .load _ _ _ _ _ | .store _ _ _ _ _ | .ioctlIn _ _ _ _ _ | .ioctlOut _ _ _ _ _ | .movc _ _ | .testc _ _ => false
  | .nop | .reset | .sleep | .trap _ | .sext _ | .cmpl _ _ | .jsr _ _ => false
  | .add _ _ _ | .addc _ _ _ | .sub _ _ _ | .subb _ _ _ | .test _ _ _ | .swap _ _ _ => false
  | .mul _ _ _ _ _ | .div _ _ _ _ _ => false
  | .shift _ _ _ _ _ _ | .rot _ _ _ _ _ _ | .shiftc _ _ _ _ _ | .rotc _ _ _ _ _ => false
  | .addq _ _ _ | .subq _ _ _ | .mulq _ _ _ | .bcc _ _ _ => false

/-- Encodings that stand for no instruction: R116(a) to (d) and the must-be-zero bits of R117(a) to (c), written from
the rules' own ranges (30_encoding.md). -/
def unassigned (b1 b2 : Byte) : Bool :=
  let p := b1.toNat
  let q := b2.toNat
  (3 ≤ p && p ≤ 7) || (0x48 ≤ p && p ≤ 0x5F) ||
  (p == 0x38 && ((0x9A ≤ q && q ≤ 0xA7) || (0xB8 ≤ q && q ≤ 0xCF) || 0xE0 ≤ q)) ||
  (0x39 ≤ p && p ≤ 0x3F && 0x80 ≤ q) ||
  (0x10 ≤ p && p ≤ 0x17 && (b2.getLsbD 4 || b2.getLsbD 3)) ||
  (0x18 ≤ p && p ≤ 0x1F && !b2.getLsbD 7 && (b2.getLsbD 4 || b2.getLsbD 3)) ||
  (0x38 ≤ p && p ≤ 0x3F && !b2.getLsbD 7 && b2.getLsbD 5) ||
  (0x60 ≤ p && p ≤ 0x9F && !b1.getLsbD 4 && b2.getLsbD 7)

end Sys2Proof

namespace Sys2Proof.Machine

/-! ### Platforms the spec allows -/

/-- Both stacks lie in data space: the top is a data address and the deepest cell is not below 0 (20_memory.md R68;
92_eei_decisions.md P5 to P7). -/
def Platform.stacksFit (p : Platform) : Bool :=
  decide (p.tosS.toNat < p.dataSize) && decide (p.sizeS ≤ p.tosS.toNat + 1) && decide (p.sizeS ≤ 65536) &&
  decide (p.tosU.toNat < p.dataSize) && decide (p.sizeU ≤ p.tosU.toNat + 1) && decide (p.sizeU ≤ 65536)

/-- A descriptor of the list (60_exceptions.md R286): an unregistered one has a tag of its own and a value its length
byte can count. -/
def Descriptor.wf : Descriptor → Bool
  | .serialPort _ => true
  | .other tag value => decide (tag ≠ 0x00) && decide (tag ≠ 0x01) && decide (value.length ≤ 255)

/-- The parameters are in the ranges of 00_scope.md R6 and 92_eei_decisions.md P1 to P11, and the descriptor list fits
IO space. -/
def Platform.wf (p : Platform) : Bool :=
  p.stacksFit && decide (p.dataSize ≤ 2 ^ 24) && decide (p.codeSpaceSize ≤ 2 ^ 24) && decide (p.ioSize ≤ 2 ^ 16) &&
  decide (p.nirq ≤ 65504) && decide (p.descriptorBytes.length ≤ p.ioSize) &&
  p.descriptors.all Descriptor.wf

/-- The module's code lies in code space; its name is 8 bytes; the RFU flags are zero (20_memory.md R61, R80, R82).
Nothing is required of its BSS base (R64). -/
def Module.wf (p : Platform) (m : Module) : Bool :=
  decide (m.codeBase.toNat + m.codeSize.toNat ≤ p.codeSpaceSize) &&
  decide (m.name.length = 8) && decide (m.flags.extractLsb' 2 6 = 0)

/-- At most 256 modules, at most one kernel and one default application (R80, R82; U6). -/
def modsWf (p : Platform) (mods : List Module) : Bool :=
  decide (mods.length ≤ 256) && mods.all (Module.wf p) &&
  decide ((mods.filter fun m => m.flags.getLsbD 1).length ≤ 1) &&
  decide ((mods.filter fun m => m.flags.getLsbD 0).length ≤ 1)

/-- The platform and the module table are ones the spec allows. -/
def State.layoutWf (s : State) : Bool := s.platform.wf && modsWf s.platform s.mods

/-! ### The invariant -/

/-- A list of interrupt numbers strictly rises from `lo` and stays below `nirq`. -/
def risingBelow (lo nirq : Nat) : List Nat → Bool
  | [] => true
  | n :: rest => decide (lo ≤ n) && decide (n < nirq) && risingBelow (n + 1) nirq rest

/-- While code runs, LINK is a pile of `lib` records on exactly one `vm` or `idle` record; every `lib` record names a
module, no other does (10_state.md R41). -/
def linkChain : List LinkRec → Bool
  | [] => false
  | [r] => decide (r.kind ≠ .lib) && r.cm.isNone
  | r :: rest => decide (r.kind = .lib) && r.cm.isSome && linkChain rest

/-- LINK fits what the machine is doing: a chain while running or asleep, empty in the VM's sleep state and when
halted (70_reset_and_hazards.md R300 to R302). -/
def State.linkOk (s : State) : Bool :=
  match s.run with
  | .running | .asleep => linkChain s.link
  | .vmSleep | .halted => s.link.isEmpty

/-- The invariant: both memories are canonical and inside their spaces, PENDING is a set of interrupt numbers below
NIRQ, LINK fits the run state, and the VM's sleep state is in supervisor mode (R302(c)). -/
def State.Inv (s : State) : Prop :=
  Memory.wf .data s.data = true ∧ Memory.below s.platform.dataSize s.data = true ∧
  Memory.wf .code s.code = true ∧
  risingBelow 0 s.platform.nirq s.pending = true ∧
  s.linkOk = true ∧
  (s.run = .vmSleep → s.ps.m = true)

/-! ### What the claims read -/

/-- Every data-space byte outside a list of addresses reads as before. -/
def SameDataBut (addrs : List Nat) (s t : State) : Prop := ∀ a, a ∉ addrs → t.dataByte a = s.dataByte a

/-- The value of general register `n`, or of the pair it names: the odd register is the high byte (10_state.md R21,
R22). -/
def GpValue (s : State) (n : RegNum) : (sz : Size) → BitVec sz.bits
  | .byte => s.regs[n.toNat]'n.isLt
  | .word => (s.regs[((n &&& 6) + 1).toNat]'((n &&& 6) + 1).isLt) ++ (s.regs[(n &&& 6).toNat]'(n &&& 6).isLt)

/-- The general registers a destination of size `sz` covers: one, or the pair (R22). -/
def covers (n : RegNum) : Size → RegNum → Prop
  | .byte, k => k = n
  | .word, k => k = n &&& 6 ∨ k = (n &&& 6) + 1

/-- General register `n` at size `sz` holds `v`, and every general register it does not cover is unchanged (R22). -/
def HoldsReg (s t : State) (sz : Size) (n : RegNum) (v : BitVec sz.bits) : Prop :=
  GpValue t n sz = v ∧ ∀ k, ¬ covers n sz k → GpValue t k .byte = GpValue s k .byte

/-- An instruction of `len` bytes that writes `v` to a general register and perhaps flags: no other register, no byte
of memory, no other state changes. -/
def WroteReg (s t : State) (sz : Size) (rd : RegNum) (len : Nat) (v : BitVec sz.bits) : Prop :=
  HoldsReg s t sz rd v ∧ t = { s with regs := t.regs, pc := s.pc + BitVec.ofNat 16 len, flags := t.flags }

/-- What writing `v` to an operand does, PC being `next` unless it is the operand: nothing else changes (R22, R27, R33,
R35, R36). -/
def WroteOperand (s t : State) (next : Word) (sz : Size) (v : BitVec sz.bits) : Operand → Prop
  | .gp n => HoldsReg s t sz n v ∧ t = { s with regs := t.regs, pc := next }
  | .special .pc => t = { s with pc := v.setWidth 16 }
  | .special .sp =>
    if s.ps.m then t = { s with pc := next, ssp := v.setWidth 16 } else t = { s with pc := next, usp := v.setWidth 16 }
  | .special .usp => t = { s with pc := next, usp := v.setWidth 16 }
  | .special .fp => t = { s with pc := next, fp := v.setWidth 16 }
  | .special .as => t = { s with pc := next, flags := ⟨v.getLsbD 0, v.getLsbD 1, v.getLsbD 2, v.getLsbD 3⟩ }
  | .special .ps =>
    t = { s with pc := next, ps := ⟨v.getLsbD 0, v.getLsbD 1, v.getLsbD 2, v.getLsbD 3, v.getLsbD 4⟩ }
  | .special .cm => False
  | .special .reserved => False

/-- What reading an operand gives: PC as `next`, SP by mode, AS and PS with zeros above their bits (R22, R27, R33, R35,
R36). -/
def OperandValue (s : State) (next : Word) (sz : Size) : Operand → BitVec sz.bits
  | .gp n => GpValue s n sz
  | .special .pc => next.setWidth sz.bits
  | .special .sp => (if s.ps.m then s.ssp else s.usp).setWidth sz.bits
  | .special .usp => s.usp.setWidth sz.bits
  | .special .fp => s.fp.setWidth sz.bits
  | .special .as => BitVec.ofNat sz.bits (s.flags.z.toNat + 2 * s.flags.c.toNat + 4 * s.flags.n.toNat + 8 * s.flags.v.toNat)
  | .special .ps => BitVec.ofNat sz.bits
      (s.ps.m.toNat + 2 * s.ps.t.toNat + 4 * s.ps.i.toNat + 8 * s.ps.b.toNat + 16 * s.ps.sm.toNat)
  | .special .cm => s.cm.setWidth sz.bits
  | .special .reserved => 0

/-- Z and N follow a result, C and V are kept (10_state.md R28, R29). -/
def ZNOf (s t : State) {w : Nat} (r : BitVec w) : Prop :=
  (t.flags.z = true ↔ r = 0) ∧ t.flags.n = r.msb ∧ t.flags.c = s.flags.c ∧ t.flags.v = s.flags.v

/-- `r` and the flags of a sum: C and `r` together are the exact sum, V is a signed sum out of range (41_arithmetic.md
R173(a), (c)). -/
def SumFlags (f : Flags) {w : Nat} (a b : BitVec w) (c : Bool) (r : BitVec w) : Prop :=
  r.toNat + f.c.toNat * 2 ^ w = a.toNat + b.toNat + c.toNat ∧ (f.z = true ↔ r = 0) ∧ f.n = r.msb ∧
  (f.v = true ↔ ¬ (-(2 : Int) ^ (w - 1) ≤ a.toInt + b.toInt + c.toNat ∧ a.toInt + b.toInt + c.toNat < 2 ^ (w - 1)))

/-- `r` and the flags of a difference: `r` less the borrow C is the exact difference, V is a signed difference out of
range (R173(b), (c)). -/
def DiffFlags (f : Flags) {w : Nat} (x y : BitVec w) (c : Bool) (r : BitVec w) : Prop :=
  (r.toNat : Int) - (f.c.toNat : Int) * 2 ^ w = (x.toNat : Int) - (y.toNat : Int) - (c.toNat : Int) ∧
  (f.z = true ↔ r = 0) ∧ f.n = r.msb ∧
  (f.v = true ↔ ¬ (-(2 : Int) ^ (w - 1) ≤ x.toInt - y.toInt - c.toNat ∧ x.toInt - y.toInt - c.toNat < 2 ^ (w - 1)))

/-- `x` is the minuend and `y` the subtrahend of a source and a destination operand (R160). -/
def InOrder (s : State) {w : Nat} (src dst x y : BitVec w) : Prop :=
  (s.platform.subOrder = .srcMinusDst → x = src ∧ y = dst) ∧ (s.platform.subOrder = .dstMinusSrc → x = dst ∧ y = src)

/-! ### Memory, as the claims read it -/

/-- The value in one or two data cells, the second byte by PS.B (20_memory.md R66). -/
def State.valueAt (s : State) (c0 c1 : Nat) : (sz : Size) → BitVec sz.bits
  | .byte => s.dataByte c0
  | .word => if s.ps.b then s.dataByte c0 ++ s.dataByte c1 else s.dataByte c1 ++ s.dataByte c0

/-- `v` stands in one or two data cells, by the PS.B of `s`, and every other byte reads as before (R66). -/
def StoredAt (s t : State) (c0 c1 : Nat) : (sz : Size) → BitVec sz.bits → Prop
  | .byte, v => t.dataByte c0 = v ∧ SameDataBut [c0] s t
  | .word, v =>
    t.dataByte c0 = (if s.ps.b then v.extractLsb' 8 8 else v.extractLsb' 0 8) ∧
    t.dataByte c1 = (if s.ps.b then v.extractLsb' 0 8 else v.extractLsb' 8 8) ∧ SameDataBut [c0, c1] s t

/-- Real data address of index `i` of a stack: `TOS_k - i` (R68). -/
def State.stackAddr (s : State) (k : StackId) (i : Nat) : Nat := (s.platform.tos k).toNat - i

/-- The current stack has room for `n` more bytes (R73). -/
def State.room (s : State) (n : Nat) : Prop := s.sp.toNat + n ≤ s.platform.stackSize s.curStack

/-- The current stack holds `n` bytes to pop, all below its capacity (R68, R74). -/
def State.holds (s : State) (n : Nat) : Prop :=
  n ≤ s.sp.toNat ∧ s.sp.toNat ≤ s.platform.stackSize s.curStack

/-- The value `n` bytes of a push or pop take: the cells of indices SP and SP + 1 of the current stack. -/
def State.topCells (s : State) (i : Nat) : Nat × Nat := (s.stackAddr s.curStack i, s.stackAddr s.curStack (i + 1))

/-- `SP` of the current mode moved to `v`, the other stack pointer kept (10_state.md R33). -/
def State.withSp (s : State) (v : Word) : State := if s.ps.m then { s with ssp := v } else { s with usp := v }

/-- The effect of `Push` of a value of size `sz` and a jump to `target` (R73): SP up, the bytes at indices SP and SP + 1, PC;
nothing else changes. -/
def PushedThenAt (s t : State) (sz : Size) (v : BitVec sz.bits) (target : Word) : Prop :=
  StoredAt s t (s.topCells s.sp.toNat).1 (s.topCells s.sp.toNat).2 sz v ∧
  t = { s.withSp (s.sp + BitVec.ofNat 16 sz.bytes) with data := t.data, pc := target }

/-- The word `Pop(2)` reads: indices SP - 2 and SP - 1 in the order of PS.B (R66, R74). -/
def State.poppedWord (s : State) : Word :=
  s.valueAt (s.topCells (s.sp.toNat - 2)).1 (s.topCells (s.sp.toNat - 2)).2 .word

/-- The top record of LINK is one RET returns by: on the current stack, with the current SP, and no `idle` record
(45_control.md R234; log 10). -/
def State.linkMatches (s : State) : Prop :=
  ∃ r, s.link.head? = some r ∧ r.stack = s.curStack ∧ r.sp = s.sp ∧ r.kind ≠ .idle

/-! ### Exceptions, as the claims read them -/

/-- A kernel with export `k`, and room for the frame on the supervisor stack: what an entry needs (60_exceptions.md
R266, R269, R273). -/
def State.canEnter (s : State) (k : Nat) : Prop :=
  ∃ m x off, s.kernel = some m ∧ s.moduleAt m = some x ∧ x.exports[k]? = some off ∧ s.ssp.toNat + 4 ≤ s.platform.sizeS

/-- The entry frame of an event: indices ssp to ssp + 3 hold the return PC, the old CM and the old PS, SSP is up by 4,
and every other byte reads as before (R266). -/
def FramePushed (s t : State) (retpc : Word) : Prop :=
  t.ssp = s.ssp + 4 ∧
  t.dataByte (s.stackAddr .sup s.ssp.toNat) = (if s.ps.b then retpc.extractLsb' 8 8 else retpc.extractLsb' 0 8) ∧
  t.dataByte (s.stackAddr .sup (s.ssp.toNat + 1)) = (if s.ps.b then retpc.extractLsb' 0 8 else retpc.extractLsb' 8 8) ∧
  t.dataByte (s.stackAddr .sup (s.ssp.toNat + 2)) = s.cm ∧
  t.dataByte (s.stackAddr .sup (s.ssp.toNat + 3)) = OperandValue s 0 .byte (.special .ps) ∧
  SameDataBut [s.stackAddr .sup s.ssp.toNat, s.stackAddr .sup (s.ssp.toNat + 1), s.stackAddr .sup (s.ssp.toNat + 2),
    s.stackAddr .sup (s.ssp.toNat + 3)] s t

/-- The machine entered handler `k`: the kernel runs at its export k in supervisor mode after the frame; R0 to R7, FP,
USP, AS and the hidden state are as before, and PS but for M and I (R266). -/
def Entered (s t : State) (k : Nat) (retpc : Word) (keepI : Bool) : Prop :=
  ∃ m x off, s.kernel = some m ∧ s.moduleAt m = some x ∧ x.exports[k]? = some off ∧
    FramePushed s t retpc ∧
    t = { s with
          data := t.data
          ssp := t.ssp
          ps := { s.ps with m := true, i := s.ps.i && keepI }
          cm := m
          pc := off }

/-! ### IO space, as the claims read it -/

/-- The byte access number `n` finds at a port: the descriptor list's, or what the peripheral supplies
(20_memory.md R70, 60_exceptions.md R286; log 9). -/
def State.portByte (s : State) (n port : Nat) : Byte :=
  (s.platform.descriptorBytes[port]?).getD (Config.ioRead n (BitVec.ofNat 16 port))

/-- What the record gains by reading a port: nothing inside the descriptor list (R70, R286; log 9). -/
def State.portRead (s : State) (n port : Nat) : List IoEvent :=
  if port < s.platform.descriptorBytes.length then [] else [.read (BitVec.ofNat 16 port) (s.portByte n port)]

/-- What the record gains by writing a port: nothing inside the descriptor list, whose writes are discarded (R286). -/
def State.portWritten (s : State) (port : Nat) (v : Byte) : List IoEvent :=
  if port < s.platform.descriptorBytes.length then [] else [.written (BitVec.ofNat 16 port) v]

/-- The value one or two ports give, lower port first, joined by PS.B (R66, R70). -/
def State.portValue (s : State) (port : Nat) : (sz : Size) → BitVec sz.bits
  | .byte => s.portByte s.ioLog.length port
  | .word =>
    let b0 := s.portByte s.ioLog.length port
    let b1 := s.portByte (s.ioLog.length + (s.portRead s.ioLog.length port).length) (port + 1)
    if s.ps.b then b0 ++ b1 else b1 ++ b0

/-- What the record gains by reading one or two ports, in order (R70). -/
def State.portReads (s : State) (port : Nat) : Size → List IoEvent
  | .byte => s.portRead s.ioLog.length port
  | .word => s.portRead s.ioLog.length port ++
      s.portRead (s.ioLog.length + (s.portRead s.ioLog.length port).length) (port + 1)

/-- What the record gains by writing a value to one or two ports, in order (R70, 44_load_store_io.md R217). -/
def State.portWrites (s : State) (port : Nat) : (sz : Size) → BitVec sz.bits → List IoEvent
  | .byte, v => s.portWritten port v
  | .word, v => s.portWritten port (if s.ps.b then v.extractLsb' 8 8 else v.extractLsb' 0 8) ++
      s.portWritten (port + 1) (if s.ps.b then v.extractLsb' 0 8 else v.extractLsb' 8 8)

end Sys2Proof.Machine
end

