-- ==== Sys2Proof/Certificates/Slice0/Obligations.lean ====
section
/-! DEFINITION. The statements for the provers. Section headings name the files of spec/ whose rules they come from;
OBLIGATIONS.json says what each one states. -/

section

open Sys2Proof Sys2Proof.Machine

/-! ### Encoding (30_encoding.md) -/

/-- Decoding an encoded instruction, whatever follows it, gives the instruction back: every constructor, every field
at every value (R102 to R112). Reserved field values (R118) have encodings too. -/
def Obligations.DecodeEncode : Prop :=
  ∀ (i : Instr) (rest : List Byte), decode (encode i ++ rest) = .ok (i, rest)

/-- Each encoding stands for one instruction: bytes that decode are that instruction's own encoding (R114, R115). -/
def Obligations.EncodeDecode : Prop :=
  ∀ (bs rest : List Byte) (i : Instr), decode bs = .ok (i, rest) → bs = encode i ++ rest

/-- The length of R100, and the fetch's view of it: a second byte is there exactly when b1 says so, and b1 and b2 say
how many follow. -/
def Obligations.EncodingLength : Prop :=
  ∀ (i : Instr), (encode i).length = i.length ∧ 1 ≤ i.length ∧ i.length ≤ 4 ∧
    (∀ b1, encode i = [b1] → hasSecondByte b1 = false) ∧
    (∀ b1 b2 more, encode i = b1 :: b2 :: more → hasSecondByte b1 = true ∧ extraBytes b1 b2 = more.length)

/-- Words of the spec's examples, byte by byte. -/
def Obligations.DecodeWords : Prop :=
  decode [0x09, 0x00] = .ok (.mov .byte (.gp 1) (.gp 0), []) ∧
  decode [0x08, 0x32] = .ok (.mov .word (.special .pc) (.gp 2), []) ∧
  decode [0x10, 0x81] = .ok (.addc .byte 0 1, []) ∧
  decode [0x18, 0xEA] = .ok (.div .word false .word 0 2, []) ∧
  decode [0x28, 0xD1] = .ok (.rotc true .byte .right 0 1, []) ∧
  decode [0x38, 0x0A] = .ok (.testb .word (.gp 0) 2, []) ∧
  decode [0x38, 0xD3] = .ok (.trap 3, []) ∧
  decode [0x44, 0x15] = .ok (.libcall 1 5, []) ∧
  decode [0x70, 0x81, 0x23, 0x01] = .ok (.load .byte (.gp 0) .byte (.gp 1) (.long 0x0123), []) ∧
  decode [0x98, 0x62, 0x01] = .ok (.ioctlOut .word (.gp 0) .word (.gp 2) (.short 1), []) ∧
  decode [0xBB, 0x02, 0x01] = .ok (.movc (.special .fp) (.long 0x0102), []) ∧
  decode [0xF1, 0x03] = .ok (.bcc true .eq (.short 3), [])

/-- The decoder refuses the encodings of R116 and R117 and no other. That it is the decoder that refuses them, must-be-zero
bits of R117(c) included, and that it decodes the reserved values of R118, is the model's choice of where the check
stands (log 24); the spec gives all of them the same BadInstr. -/
def Obligations.UnassignedRejected : Prop :=
  ∀ (b1 b2 b3 b4 : Byte), (∃ r, decode [b1, b2, b3, b4] = .error r) ↔ unassigned b1 b2 = true

/-- A reserved field value, or a form closed to user mode in user mode, raises BadInstr (R118(a) to (e); R281(a), (b),
(e) of 60_exceptions.md). -/
def Obligations.ReservedFormsRaise : Prop :=
  ∀ (i : Instr) (s : State), i.allowed s.ps.m = false → exec i s = s.raise .badInstr

/-! ### One step (00_scope.md R11, 20_memory.md R62, 60_exceptions.md R268) -/

/-- A running machine with no reset and no interrupt to take executes what its bytes decode to; bytes that decode to
nothing raise BadInstr; a fetch that fails raises what it failed with. -/
def Obligations.StepRunsDecoded : Prop :=
  ∀ (s : State), s.outsideReset = false → s.arrive.interruptReady = false → s.run = .running →
    (∀ bytes i rest, s.arrive.fetchInstr = .ok bytes → decode bytes = .ok (i, rest) → step s = exec i s.arrive) ∧
    (∀ bytes r, s.arrive.fetchInstr = .ok bytes → decode bytes = .error r → step s = s.arrive.raise .badInstr) ∧
    (∀ e, s.arrive.fetchInstr = .error (.raise e) → step s = s.arrive.raise e)

/-- When the code bytes from PC on are the encoding of an instruction, the fetch takes exactly them and the step
executes that instruction. -/
def Obligations.StepRunsEncoded : Prop :=
  ∀ (s : State) (i : Instr), s.outsideReset = false → s.arrive.interruptReady = false → s.run = .running →
    s.arrive.fetchMany s.pc i.length = .ok (encode i) →
    s.arrive.fetchInstr = .ok (encode i) ∧ step s = exec i s.arrive

/-- The fetch check, byte by byte, at `(PC + k) mod 2^16`; an instruction with a byte outside its module raises AddrErr;
a CM that names no module has no code (R62). -/
def Obligations.FetchRange : Prop :=
  ∀ (s : State),
    (∀ p, s.curModule = none → s.fetch p = .error (.raise .addrErr)) ∧
    (∀ p m, s.curModule = some m → m.codeSize.toNat ≤ p.toNat → s.fetch p = .error (.raise .addrErr)) ∧
    (∀ p m, s.curModule = some m → p.toNat < m.codeSize.toNat →
      m.codeBase.toNat + p.toNat < s.platform.codeSpaceSize →
      s.fetch p = .ok (s.codeByte (m.codeBase.toNat + p.toNat))) ∧
    (∀ bytes, s.fetchInstr = .ok bytes → 1 ≤ bytes.length ∧ bytes.length ≤ 4 ∧
      ∀ k b, bytes[k]? = some b → s.fetch (s.pc + BitVec.ofNat 16 k) = .ok b) ∧
    (∀ e, s.fetchInstr = .error (.raise e) → e = .addrErr)

/-- An asleep, VM-sleeping or halted machine with no reset and no interrupt to take fetches nothing: only what the
environment brings changes (46_system.md R253, 70_reset_and_hazards.md R302). That a step then answers this state is
the model's choice (log 13). A halted machine takes no interrupt. A reset from outside boots the machine (log 8). -/
def Obligations.IdleSteps : Prop :=
  ∀ (s : State),
    (s.outsideReset = false → s.arrive.interruptReady = false → s.run ≠ .running → step s = .next s.arrive) ∧
    (s.run = .halted → s.arrive.interruptReady = false) ∧
    (s.outsideReset = true → step s = .next s.arrive.reboot)

/-- An interrupt that can be taken is taken before the next fetch: the first number n of PENDING, under the invariant
its least, leaves it. Running or asleep, handler 32 + n is entered with the PC of the next instruction; in the VM's sleep state with PC 0 and the
kernel as the old CM, and an `idle` record with the SSP after the frame then stands on LINK. Without a handler the
system reboots (60_exceptions.md R268, R271, R273; 70_reset_and_hazards.md R302(c)). An SSP of 65536 after the frame is
0 by the model's reading (log 14). -/
def Obligations.InterruptTaken : Prop :=
  ∀ (s : State) (n : Nat) (more : List Nat), s.platform.stacksFit = true → s.outsideReset = false →
    s.ps.i = true → s.arrive.pending = n :: more →
    (s.Inv → ∀ k ∈ more, n < k) ∧
    (s.run = .running ∨ s.run = .asleep →
      (s.canEnter (32 + n) →
        ∃ t, step s = .next t ∧ Entered { s.arrive with pending := more, run := .running } t (32 + n) s.pc false) ∧
      (¬ s.canEnter (32 + n) →
        step s = .next ({ s.arrive with pending := more, run := .running } : State).reboot)) ∧
    (∀ m, s.run = .vmSleep → s.kernel = some m →
      (s.canEnter (32 + n) →
        ∃ t, step s = .next t ∧ t.link = ⟨.idle, none, .sup, t.ssp⟩ :: s.link ∧
          Entered { s.arrive with pending := more, run := .running, cm := m } { t with link := s.link } (32 + n) 0
            false) ∧
      (¬ s.canEnter (32 + n) →
        step s = .next ({ s.arrive with pending := more, run := .running, cm := m } : State).reboot))

/-! ### Invariants -/

/-- Every step keeps the invariant: canonical memories inside data space, PENDING a set of interrupt numbers, LINK
fitting the run state, the VM's sleep state in supervisor mode (10_state.md R41, R42; 70_reset_and_hazards.md R302). -/
def Obligations.StepKeepsInv : Prop :=
  ∀ (s t : State), s.Inv → step s = .next t → t.Inv

/-- The invariant holds at reset. -/
def Obligations.ResetInv : Prop := State.reset.Inv ∧ State.reset.layoutWf = true

/-- No step changes code space, the parameters, or anything of the module table but where a reboot places the BSS
blocks (20_memory.md R63, R78, R87; 10_state.md R40). -/
def Obligations.StepKeepsCode : Prop :=
  ∀ (s t : State), step s = .next t → t.code = s.code ∧ t.platform = s.platform ∧
    t.mods.map (fun m => { m with bssBase := 0 }) = s.mods.map (fun m => { m with bssBase := 0 }) ∧
    (t.boots = s.boots → t.mods = s.mods) ∧ s.boots ≤ t.boots

/-- On a platform and a module table the spec allows, every step answers a next state: no fault, no refusal. -/
def Obligations.StepAnswersNext : Prop :=
  ∀ (s : State), s.layoutWf = true → ∃ t, step s = .next t

/-- Every step keeps the platform and the module table ones the spec allows, and a reboot places every BSS block that
fits data space inside it (70_reset_and_hazards.md R300, R305). -/
def Obligations.StepKeepsLayout : Prop :=
  ∀ (s t : State), s.layoutWf = true → step s = .next t → t.layoutWf = true ∧
    (t.boots ≠ s.boots → ∀ m ∈ t.mods, m.bssSize.toNat ≤ t.platform.dataSize →
      m.bssBase.toNat + m.bssSize.toNat ≤ t.platform.dataSize)

/-- The values the spec gives at reset with no module loaded: SSP and USP 0, T, I, B, SM 0, LINK and PENDING empty,
halted, TOS_S = 128, SIZE_S = 128, TOS_U = DATA_SIZE - 1, the source's SUB_ORDER (10_state.md R43, 00_scope.md R6,
70_reset_and_hazards.md R300). That no module is loaded is the model's choice (log 2). -/
def Obligations.ResetValues : Prop :=
  State.reset.ssp = 0 ∧ State.reset.usp = 0 ∧ State.reset.ps.t = false ∧ State.reset.ps.i = false ∧
  State.reset.ps.b = false ∧ State.reset.ps.sm = false ∧ State.reset.link = [] ∧ State.reset.pending = [] ∧
  State.reset.mods = [] ∧ State.reset.run = .halted ∧ State.reset.platform.tosS = 128 ∧
  State.reset.platform.sizeS = 128 ∧ State.reset.platform.tosU.toNat = State.reset.platform.dataSize - 1 ∧
  State.reset.platform.subOrder = .srcMinusDst

/-! ### Privilege (60_exceptions.md R281, R282) -/

/-- What a user-mode instruction can change of data space, unless it reboots the machine: its own module's BSS block,
the user stack, and, when it enters a handler, the four bytes of the frame (R281(d); R266). The stacks are ones the
spec allows. -/
def Obligations.UserModeMemory : Prop :=
  ∀ (i : Instr) (s t : State) (a : Nat), s.platform.stacksFit = true → s.ps.m = false → exec i s = .next t →
    t.boots = s.boots → t.dataByte a ≠ s.dataByte a →
    (∃ m, s.curModule = some m ∧ m.bssBase.toNat ≤ a ∧ a < m.bssBase.toNat + m.bssSize.toNat) ∨
    (∃ j, j < s.platform.sizeU ∧ j ≤ s.platform.tosU.toNat ∧ a = s.stackAddr .usr j) ∨
    (t.ps.m = true ∧ ∃ j, j < 4 ∧ a = s.stackAddr .sup (s.ssp.toNat + j))

/-- A user-mode instruction touches no port, and changes PS and SSP only by entering a handler at an export of the
kernel (R281, R266), or PS.M by a RET that puts the VM to sleep, which is the VM's doing (70_reset_and_hazards.md
R302(c)), unless it reboots the machine. An SSP of 65536 after the frame is 0 by the model's reading (log 14). -/
def Obligations.UserModeStatus : Prop :=
  ∀ (i : Instr) (s t : State), s.ps.m = false → exec i s = .next t → t.boots = s.boots →
    t.ioLog = s.ioLog ∧
    ((t.ps = s.ps ∧ t.ssp = s.ssp) ∨
     (i = .ret ∧ t.run = .vmSleep ∧ t.ps = { s.ps with m := true } ∧ t.ssp = s.ssp) ∨
     (∃ (k : Nat) (m : Byte) (x : Module) (off : Word), s.kernel = some m ∧ s.moduleAt m = some x ∧ x.exports[k]? = some off ∧ t.cm = m ∧ t.pc = off ∧
       t.ps = { s.ps with m := true } ∧ t.ssp = s.ssp + 4))

/-- Supervisor mode is left only by RETI, by an instruction whose destination is PS, or by the kernel's return to the
VM, which starts the default application. -/
def Obligations.LeavingSupervisor : Prop :=
  ∀ (i : Instr) (s t : State), s.ps.m = true → exec i s = .next t → t.ps.m = false →
    i = .reti ∨ i.writesPs = true ∨
    (i = .ret ∧ s.vmPhase = .kernel ∧ ∃ a, s.defaultApp = some a ∧ t.cm = a ∧ t.pc = 0)

/-- CM and LINK change only by LIBCALL, LIBCALLX, RET, RETI, and CM by entering a handler of the kernel, unless the
machine reboots (10_state.md R37, R41; 45_control.md R238). -/
def Obligations.ModuleSwitches : Prop :=
  ∀ (i : Instr) (s t : State), exec i s = .next t → t.boots = s.boots → i.switchesModule = false →
    t.link = s.link ∧
    (t.cm = s.cm ∨
     ∃ (k : Nat) (m : Byte) (x : Module) (off : Word), s.kernel = some m ∧ s.moduleAt m = some x ∧ x.exports[k]? = some off ∧ t.cm = m ∧ t.pc = off)

/-! ### Registers and stacks (10_state.md, 20_memory.md) -/

/-- SP names SSP in supervisor mode and USP in user mode, read and written; special register 2 names USP in both; user
mode has no way to name SSP, as an operand or as a base. SP counts the bytes pushed: it goes up by what a push takes,
while 16 bits hold the count, and down by what a pop gives back (R33). -/
def Obligations.StackPointers : Prop :=
  ∀ (s : State) (next v : Word),
    (s.ps.m = true → s.operand next .word (.special .sp) = s.ssp ∧
      s.writeOperand next .word v (.special .sp) = { s with pc := next, ssp := v }) ∧
    (s.ps.m = false → s.operand next .word (.special .sp) = s.usp ∧
      s.writeOperand next .word v (.special .sp) = { s with pc := next, usp := v }) ∧
    s.operand next .word (.special .usp) = s.usp ∧
    s.writeOperand next .word v (.special .usp) = { s with pc := next, usp := v } ∧
    (s.ps.m = false → ∀ (o : Operand) (sz : Size) (x : BitVec sz.bits),
      ({ s with ssp := v } : State).operand next sz o = s.operand next sz o ∧
      (s.writeOperand next sz x o).ssp = s.ssp ∧ ({ s with ssp := v } : State).base sz o = s.base sz o) ∧
    (∀ (sz : Size) (x : BitVec sz.bits) (t : State), s.push sz x = .ok t → s.sp.toNat + sz.bytes < 65536 →
      t.sp.toNat = s.sp.toNat + sz.bytes) ∧
    (∀ (sz : Size) (x : BitVec sz.bits) (t : State), s.pop sz = .ok (x, t) → t.sp.toNat + sz.bytes = s.sp.toNat)

/-- `Pop(n)` of 20_memory.md R74: underflow raises StackErr; else SP goes down by n and the value is read at the new
index SP; an SP above the capacity makes the read raise StackErr, and on a platform of the spec nothing else does. -/
def Obligations.PopRule : Prop :=
  ∀ (s : State) (sz : Size),
    (s.sp.toNat < sz.bytes → s.pop sz = .error (.raise .stackErr)) ∧
    (sz.bytes ≤ s.sp.toNat → ∀ v, s.memRead (.stack s.curStack) (s.sp.toNat - sz.bytes) sz = .ok v →
      s.pop sz = .ok (v, s.withSp (s.sp - BitVec.ofNat 16 sz.bytes))) ∧
    (sz.bytes ≤ s.sp.toNat → ∀ e, s.memRead (.stack s.curStack) (s.sp.toNat - sz.bytes) sz = .error e →
      s.pop sz = .error e) ∧
    (s.platform.stacksFit = true → sz.bytes ≤ s.sp.toNat →
      (s.platform.stackSize s.curStack < s.sp.toNat → s.pop sz = .error (.raise .stackErr)) ∧
      (s.sp.toNat ≤ s.platform.stackSize s.curStack → ∃ v, s.memRead (.stack s.curStack) (s.sp.toNat - sz.bytes) sz = .ok v))

/-! ### Move and logic instructions (40_move_logic.md) -/

/-- MOV and MOVC write the source or the constant to the destination operand, whatever both are, with no flag update
(R141, R145). -/
def Obligations.MoveCompletes : Prop :=
  (∀ (sz : Size) (d r : Operand) (s : State), (Instr.mov sz d r).allowed s.ps.m = true →
    ∃ t, exec (.mov sz d r) s = .next t ∧ WroteOperand s t (s.pc + 2) sz (OperandValue s (s.pc + 2) sz r) d) ∧
  (∀ (d : Operand) (c : Imm) (s : State), (Instr.movc d c).allowed s.ps.m = true →
    ∃ t, exec (.movc d c) s = .next t ∧
      WroteOperand s t (s.pc + BitVec.ofNat 16 (encode (.movc d c)).length) c.size c.value d)

/-- XOR, AND and OR write their result, bit by bit, to the destination operand; Z and N follow it, C and V are kept;
with destination AS the written value stands (R142 to R144, 10_state.md R28). -/
def Obligations.LogicCompletes : Prop :=
  ∀ (sz : Size) (d r : Operand) (s : State),
    let a := OperandValue s (s.pc + 2) sz d
    let b := OperandValue s (s.pc + 2) sz r
    let Wrote (i : Instr) (v : BitVec sz.bits) : Prop :=
      ∃ u t, exec i s = .next t ∧ WroteOperand s u (s.pc + 2) sz v d ∧
        (d = .special .as → t = u) ∧ (d ≠ .special .as → t = { u with flags := t.flags } ∧ ZNOf s t v)
    ((Instr.xor sz d r).allowed s.ps.m = true → Wrote (.xor sz d r) (a ^^^ b)) ∧
    ((Instr.and sz d r).allowed s.ps.m = true → Wrote (.and sz d r) (a &&& b)) ∧
    ((Instr.or sz d r).allowed s.ps.m = true → Wrote (.or sz d r) (a ||| b))

/-- SWAP with S = 0 exchanges the nibbles of RS into RD; with S = 1 it exchanges the two pairs. SEXT: the pair becomes
the sign extension of its even register, which keeps its value. No flag, no other register (R146, R147). -/
def Obligations.SwapSextCompletes : Prop :=
  ∀ (rd rs : RegNum) (s : State),
    (∃ t v, exec (.swap .byte rd rs) s = .next t ∧ WroteReg s t .byte rd 2 v ∧ t.flags = s.flags ∧
      v.extractLsb' 0 4 = (GpValue s rs .byte).extractLsb' 4 4 ∧
      v.extractLsb' 4 4 = (GpValue s rs .byte).extractLsb' 0 4) ∧
    (∃ t, exec (.swap .word rd rs) s = .next t ∧ t = { s with regs := t.regs, pc := s.pc + 2 } ∧
      GpValue t rd .word = GpValue s rs .word ∧ GpValue t rs .word = GpValue s rd .word ∧
      ∀ k, ¬ covers rd .word k → ¬ covers rs .word k → GpValue t k .byte = GpValue s k .byte) ∧
    (∃ t, exec (.sext rd) s = .next t ∧
      WroteReg s t .word rd 2 ((GpValue s (rd &&& 6) .byte).signExtend 16) ∧ t.flags = s.flags)

/-! ### Arithmetic instructions (41_arithmetic.md) -/

/-- ADD, ADDC and ADDQ: the destination gets the sum, C and the result together are the exact sum, V is a signed sum
out of range (R161, R162, R168, R173(a), (c)). -/
def Obligations.AddFamilyCompletes : Prop :=
  (∀ (sz : Size) (rd rs : RegNum) (s : State), ∃ t r, exec (.add sz rd rs) s = .next t ∧ WroteReg s t sz rd 2 r ∧
    SumFlags t.flags (GpValue s rd sz) (GpValue s rs sz) false r) ∧
  (∀ (sz : Size) (rd rs : RegNum) (s : State), ∃ t r, exec (.addc sz rd rs) s = .next t ∧ WroteReg s t sz rd 2 r ∧
    SumFlags t.flags (GpValue s rd sz) (GpValue s rs sz) s.flags.c r) ∧
  (∀ (sz : Size) (rd : RegNum) (val : BitVec 4) (s : State), ∃ t r, exec (.addq sz rd val) s = .next t ∧
    WroteReg s t sz rd 2 r ∧ SumFlags t.flags (GpValue s rd sz) (BitVec.ofNat sz.bits val.toNat) false r)

/-- SUB, SUBB and SUBQ, in the order SUB_ORDER gives: the destination gets the difference, C is its borrow, V a signed
difference out of range (R160, R163, R164, R169, R173(b), (c)). -/
def Obligations.SubFamilyCompletes : Prop :=
  (∀ (sz : Size) (rd rs : RegNum) (s : State) (x y : BitVec sz.bits),
    InOrder s (GpValue s rs sz) (GpValue s rd sz) x y →
    ∃ t r, exec (.sub sz rd rs) s = .next t ∧ WroteReg s t sz rd 2 r ∧ DiffFlags t.flags x y false r) ∧
  (∀ (sz : Size) (rd rs : RegNum) (s : State) (x y : BitVec sz.bits),
    InOrder s (GpValue s rs sz) (GpValue s rd sz) x y →
    ∃ t r, exec (.subb sz rd rs) s = .next t ∧ WroteReg s t sz rd 2 r ∧ DiffFlags t.flags x y s.flags.c r) ∧
  (∀ (sz : Size) (rd : RegNum) (val : BitVec 4) (s : State) (x y : BitVec sz.bits),
    InOrder s (BitVec.ofNat sz.bits val.toNat) (GpValue s rd sz) x y →
    ∃ t r, exec (.subq sz rd val) s = .next t ∧ WroteReg s t sz rd 2 r ∧ DiffFlags t.flags x y false r)

/-- TEST and TESTC set the flags of the difference and write no register, AS being read before its flags are set
(R165, R166). -/
def Obligations.TestFamilyCompletes : Prop :=
  (∀ (sz : Size) (rd rs : RegNum) (s : State) (x y : BitVec sz.bits),
    InOrder s (GpValue s rs sz) (GpValue s rd sz) x y →
    ∃ t r, exec (.test sz rd rs) s = .next t ∧ DiffFlags t.flags x y false r ∧
      t = { s with pc := s.pc + 2, flags := t.flags }) ∧
  (∀ (d : Operand) (c : Imm) (s : State) (x y : BitVec c.size.bits), (Instr.testc d c).allowed s.ps.m = true →
    let next := s.pc + BitVec.ofNat 16 (encode (.testc d c)).length
    InOrder s c.value (OperandValue s next c.size d) x y →
    ∃ t r, exec (.testc d c) s = .next t ∧ DiffFlags t.flags x y false r ∧ t = { s with pc := next, flags := t.flags })

/-- After a comparison of x with y, the conditions of Bcc are the comparisons of x and y: EQ, NE, and the signed GT,
LT, GE, LE; C is the unsigned x < y (45_control.md R231, 41_arithmetic.md R173(e)). -/
def Obligations.ConditionsCompare : Prop :=
  ∀ (w : Nat) (x y r : BitVec w) (f : Flags), 0 < w → DiffFlags f x y false r →
    f.cond .always = true ∧ (f.cond .eq = true ↔ x = y) ∧ (f.cond .ne = true ↔ x ≠ y) ∧
    (f.cond .gt = true ↔ y.toInt < x.toInt) ∧ (f.cond .lt = true ↔ x.toInt < y.toInt) ∧
    (f.cond .ge = true ↔ y.toInt ≤ x.toInt) ∧ (f.cond .le = true ↔ x.toInt ≤ y.toInt) ∧
    (f.c = true ↔ x.toNat < y.toNat)

/-- CMPL negates in place; MULQ and MUL with W = 0 cut the product to the destination's width; MUL with W = 1 puts the
16-bit product of the 8-bit RD in its pair. Z and N follow, C and V are kept (R167, R170, R172). -/
def Obligations.MultiplyNegateCompletes : Prop :=
  (∀ (sz : Size) (rd : RegNum) (s : State), ∃ t, exec (.cmpl sz rd) s = .next t ∧
    WroteReg s t sz rd 2 (-(GpValue s rd sz)) ∧ ZNOf s t (-(GpValue s rd sz))) ∧
  (∀ (sz : Size) (rd : RegNum) (val : BitVec 4) (s : State), ∃ t r, exec (.mulq sz rd val) s = .next t ∧
    r = BitVec.ofNat sz.bits ((GpValue s rd sz).toNat * val.toNat) ∧ WroteReg s t sz rd 2 r ∧ ZNOf s t r) ∧
  (∀ (sd ss : Size) (rd rs : RegNum) (s : State), ∃ t r, exec (.mul sd false ss rd rs) s = .next t ∧
    r = BitVec.ofNat sd.bits ((GpValue s rd sd).toNat * (GpValue s rs ss).toNat) ∧ WroteReg s t sd rd 2 r ∧ ZNOf s t r) ∧
  (∀ (ss : Size) (rd rs : RegNum) (s : State), ∃ t r, exec (.mul .byte true ss rd rs) s = .next t ∧
    r = BitVec.ofNat 16 ((GpValue s rd .byte).toNat * (GpValue s rs ss).toNat) ∧ WroteReg s t .word rd 2 r ∧ ZNOf s t r)

/-- DIV with a divisor that is not zero: the quotient q and remainder m with a = q * b + m and m < b; W = 0 stores q,
W = 1 stores q in the even and m in the odd register; Z and N follow q, C and V are kept. A zero divisor raises
DivZero (R171). -/
def Obligations.DivCompletes : Prop :=
  ∀ (sd ss : Size) (wide : Bool) (rd rs : RegNum) (s : State), (Instr.div sd wide ss rd rs).wellFormed = true →
    let a := (GpValue s rd sd).toNat
    let b := (GpValue s rs ss).toNat
    (b = 0 → exec (.div sd wide ss rd rs) s = s.raise .divZero) ∧
    (b ≠ 0 → ∃ t q m, exec (.div sd wide ss rd rs) s = .next t ∧ a = q * b + m ∧ m < b ∧
      ZNOf s t (BitVec.ofNat sd.bits q) ∧
      (wide = false → WroteReg s t sd rd 2 (BitVec.ofNat sd.bits q)) ∧
      (wide = true → WroteReg s t .word rd 2 (BitVec.ofNat 8 m ++ BitVec.ofNat 8 q)))

/-- A 16-bit ADD of pairs is an 8-bit ADD of the low registers followed by an 8-bit ADDC of the high ones, in the
stored value and in C, N and V (R173(d)). -/
def Obligations.AddChain : Prop :=
  ∀ (rd rs : RegNum) (s : State), ∃ t u v,
    exec (.add .word rd rs) s = .next t ∧ exec (.add .byte (rd &&& 6) (rs &&& 6)) s = .next u ∧
    exec (.addc .byte ((rd &&& 6) + 1) ((rs &&& 6) + 1)) u = .next v ∧
    t.regs = v.regs ∧ t.flags.c = v.flags.c ∧ t.flags.n = v.flags.n ∧ t.flags.v = v.flags.v

/-! ### Shift and rotate instructions (42_shift_rotate.md) -/

/-- SHIFT, ROT, SHIFTC and ROTC leave the register as n single steps of R190 leave it, Z and N from the result, C the
last step's bit when Y = 1 and n is at least 1, V kept; n is the whole count, up to 65535 (R190 to R194). -/
def Obligations.ShiftFamilyCompletes : Prop :=
  ∀ (y : Bool) (sd : Size) (dir : Direction) (rd : RegNum) (s : State),
    let Moved (i : Instr) (op : ShiftOp) (n : Nat) : Prop :=
      let p := shiftIter op dir (GpValue s rd sd) s.flags.c n
      ∃ t, exec i s = .next t ∧ WroteReg s t sd rd 2 p.1 ∧ (t.flags.z = true ↔ p.1 = 0) ∧ t.flags.n = p.1.msb ∧
        t.flags.c = (if y = true ∧ 1 ≤ n then p.2 else s.flags.c) ∧ t.flags.v = s.flags.v
    let rotOp : ShiftOp := if y then .rotateCarry else .rotate
    (∀ (ss : Size) (rs : RegNum), Moved (.shift y sd dir ss rd rs) .shift (GpValue s rs ss).toNat) ∧
    (∀ (ss : Size) (rs : RegNum), Moved (.rot y sd dir ss rd rs) rotOp (GpValue s rs ss).toNat) ∧
    (∀ (bits : BitVec 4), Moved (.shiftc y sd dir rd bits) .shift bits.toNat) ∧
    (∀ (bits : BitVec 4), Moved (.rotc y sd dir rd bits) rotOp bits.toNat)

/-! ### Bit instructions (43_bit.md) -/

/-- CLRB, CLRBC, SETB, SETBC write the target back with bit i alone changed; an index at or above the width changes
nothing but PC (R200 to R204). -/
def Obligations.BitChangeCompletes : Prop :=
  ∀ (sd : Size) (d : Operand) (s : State), (Instr.clrbc sd d 0).allowed s.ps.m = true →
    let Changed (i : Instr) (value : Bool) (n : Nat) : Prop :=
      ∃ t, exec i s = .next t ∧
        (n < sd.bits → ∃ v, WroteOperand s t (s.pc + 2) sd v d ∧
          ∀ j, j < sd.bits → v.getLsbD j = if j = n then value else (OperandValue s (s.pc + 2) sd d).getLsbD j) ∧
        (sd.bits ≤ n → t = { s with pc := s.pc + 2 })
    (∀ (ss : Size) (rn : RegNum), Changed (.clrb sd d ss rn) false (GpValue s rn ss).toNat) ∧
    (∀ (ss : Size) (rn : RegNum), Changed (.setb sd d ss rn) true (GpValue s rn ss).toNat) ∧
    (∀ (bits : BitVec 4), Changed (.clrbc sd d bits) false bits.toNat) ∧
    (∀ (bits : BitVec 4), Changed (.setbc sd d bits) true bits.toNat)

/-- TESTB and TESTBC set Z when the tested bit is 0, or above the width, and change nothing else; TESTBC takes a
general register as 8 bits and a special register at its own width (R200, R205, R206). -/
def Obligations.BitTestCompletes : Prop :=
  (∀ (sd : Size) (d : Operand) (rn : RegNum) (s : State), (Instr.testb sd d rn).allowed s.ps.m = true →
    exec (.testb sd d rn) s = .next { s with
      pc := s.pc + 2
      flags := { s.flags with
        z := !(OperandValue s (s.pc + 2) sd d).getLsbD (GpValue s rn .byte).toNat } }) ∧
  (∀ (d : Operand) (bits : BitVec 4) (s : State) (w : Size), (Instr.testbc d bits).allowed s.ps.m = true →
    (∀ n, d = .gp n → w = .byte) → (∀ r, d = .special r → r.size = some w) →
    exec (.testbc d bits) s = .next { s with
      pc := s.pc + 2
      flags := { s.flags with z := !(OperandValue s (s.pc + 2) w d).getLsbD bits.toNat } })

/-! ### Memory instructions (44_load_store_io.md, 20_memory.md) -/

/-- Which space each base register selects and with what value (R211), which real address an offset or index has, and
which exception an address outside raises (20_memory.md R66, R67, R68). That offset 0x10000 has no cell in supervisor
mode either is R66 with D15, where R215 and R218(c) say otherwise (log 25). -/
def Obligations.AddressTable : Prop :=
  ∀ (s : State),
    (∀ db n, s.base db (.gp n) = .ok (.bss, (GpValue s n db).setWidth 16)) ∧
    s.base .word (.special .sp) = .ok (.stack (if s.ps.m then .sup else .usr), if s.ps.m then s.ssp else s.usp) ∧
    s.base .word (.special .usp) = .ok (.stack .usr, s.usp) ∧
    s.base .word (.special .fp) = .ok (.stack (if s.ps.m then .sup else .usr), s.fp) ∧
    (∀ db o, o.baseWf db = false → s.base db o = .error (.raise .badInstr)) ∧
    (∀ m a, s.curModule = some m → s.ps.m = false → m.bssSize.toNat ≤ a → s.cell .bss a = .error (.raise .addrErr)) ∧
    (∀ m a, s.curModule = some m → s.platform.dataSize ≤ m.bssBase.toNat + a →
      s.cell .bss a = .error (.raise .addrErr)) ∧
    (∀ m a, s.curModule = some m → 0x10000 ≤ a → s.cell .bss a = .error (.raise .addrErr)) ∧
    (∀ m a, s.curModule = some m → a < 0x10000 → (s.ps.m = false → a < m.bssSize.toNat) →
      m.bssBase.toNat + a < s.platform.dataSize → s.cell .bss a = .ok (m.bssBase.toNat + a)) ∧
    (∀ k i, s.platform.stackSize k ≤ i → s.cell (.stack k) i = .error (.raise .stackErr)) ∧
    (∀ k i, s.platform.stacksFit = true → i < s.platform.stackSize k →
      s.cell (.stack k) i = .ok ((s.platform.tos k).toNat - i))

/-- A 16-bit write is read back as written, and byte-swapped after PS.B is flipped; its two cells differ (R65, R66). -/
def Obligations.ByteOrder : Prop :=
  ∀ (s t : State) (sp : Space) (a : Nat) (v : Word), s.memWrite sp a .word v = .ok t →
    t.memRead sp a .word = .ok v ∧
    (t.setPs { t.ps with b := !t.ps.b }).memRead sp a .word = .ok (v.extractLsb' 0 8 ++ v.extractLsb' 8 8) ∧
    ∀ c0 c1, s.cell sp a = .ok c0 → s.cell sp (a + 1) = .ok c1 → c0 ≠ c1

/-- LOAD outside stack mode: the destination operand gets the byte or word at the effective address; nothing else
changes (R210 to R214). -/
def Obligations.LoadCompletes : Prop :=
  ∀ (sz : Size) (d : Operand) (db : Size) (base : Operand) (idx : Index) (s : State) (sp : Space) (v : Word)
    (c0 c1 : Nat),
    (Instr.load sz d db base idx).allowed s.ps.m = true →
    ¬ (s.ps.sm = true ∧ idx = .none ∧ base = .special .sp) →
    s.base db base = .ok (sp, v) → s.cell sp (effectiveAddress v idx) = .ok c0 →
    (sz = .word → s.cell sp (effectiveAddress v idx + 1) = .ok c1) →
    ∃ t, exec (.load sz d db base idx) s = .next t ∧
      WroteOperand s t (s.pc + BitVec.ofNat 16 (encode (.load sz d db base idx)).length) sz (s.valueAt c0 c1 sz) d

/-- LOAD in stack mode, base SP, no index, is a pop: SP goes down by the width, then the destination operand (SP and
PC included) gets the value at the new index SP (R213, R214, 20_memory.md R74). -/
def Obligations.PopCompletes : Prop :=
  ∀ (sz : Size) (d : Operand) (s : State), (Instr.load sz d .word (.special .sp) .none).allowed s.ps.m = true →
    s.platform.stacksFit = true → s.ps.sm = true → s.holds sz.bytes →
    ∃ t, exec (.load sz d .word (.special .sp) .none) s = .next t ∧
      WroteOperand (s.withSp (s.sp - BitVec.ofNat 16 sz.bytes)) t (s.pc + 2) sz
        (s.valueAt (s.topCells (s.sp.toNat - sz.bytes)).1 (s.topCells (s.sp.toNat - sz.bytes)).2 sz) d

/-- STORE outside stack mode: the bytes at the effective address hold the data register, by PS.B; every other byte of
memory, every register and every flag is as before (R215). -/
def Obligations.StoreCompletes : Prop :=
  ∀ (sz : Size) (d : Operand) (db : Size) (base : Operand) (idx : Index) (s : State) (sp : Space) (v : Word)
    (c0 c1 : Nat),
    (Instr.store sz d db base idx).allowed s.ps.m = true →
    ¬ (s.ps.sm = true ∧ idx = .none ∧ base = .special .sp) →
    s.base db base = .ok (sp, v) → s.cell sp (effectiveAddress v idx) = .ok c0 →
    (sz = .word → s.cell sp (effectiveAddress v idx + 1) = .ok c1) →
    let next := s.pc + BitVec.ofNat 16 (encode (.store sz d db base idx)).length
    ∃ t, exec (.store sz d db base idx) s = .next t ∧ StoredAt s t c0 c1 sz (OperandValue s next sz d) ∧
      t = { s with data := t.data, pc := next }

/-- STORE in stack mode, base SP, no index, is a push of the value the data register had before it (R213, R215,
20_memory.md R73). An SP of 65536 after it is 0 by the model's reading (log 14). -/
def Obligations.PushCompletes : Prop :=
  ∀ (sz : Size) (d : Operand) (s : State), (Instr.store sz d .word (.special .sp) .none).allowed s.ps.m = true →
    s.platform.stacksFit = true → s.ps.sm = true → s.room sz.bytes →
    ∃ t, exec (.store sz d .word (.special .sp) .none) s = .next t ∧
      PushedThenAt s t sz (OperandValue s (s.pc + 2) sz d) (s.pc + 2)

/-- LOAD and STORE at an address one of whose bytes has no cell raise what the cell raises; a pop of more bytes than SP
counts, a pop with SP above the capacity, and a push beyond the capacity raise StackErr: nothing is loaded or stored (R214, R215; 20_memory.md R66, R73, R74). -/
def Obligations.AccessTraps : Prop :=
  ∀ (sz : Size) (d : Operand) (db : Size) (base : Operand) (idx : Index) (s : State),
    (∀ (sp : Space) (v : Word) (e : Exc),
      ¬ (s.ps.sm = true ∧ idx = .none ∧ base = .special .sp) → s.base db base = .ok (sp, v) →
      s.cell sp (effectiveAddress v idx) = .error (.raise e) ∨
        (sz = .word ∧ (∃ c, s.cell sp (effectiveAddress v idx) = .ok c) ∧
          s.cell sp (effectiveAddress v idx + 1) = .error (.raise e)) →
      ((Instr.load sz d db base idx).allowed s.ps.m = true → exec (.load sz d db base idx) s = s.raise e) ∧
      ((Instr.store sz d db base idx).allowed s.ps.m = true → exec (.store sz d db base idx) s = s.raise e)) ∧
    (s.ps.sm = true → s.sp.toNat < sz.bytes → (Instr.load sz d .word (.special .sp) .none).allowed s.ps.m = true →
      exec (.load sz d .word (.special .sp) .none) s = s.raise .stackErr) ∧
    (s.platform.stacksFit = true → s.ps.sm = true → ¬ s.holds sz.bytes →
      (Instr.load sz d .word (.special .sp) .none).allowed s.ps.m = true →
      exec (.load sz d .word (.special .sp) .none) s = s.raise .stackErr) ∧
    (s.ps.sm = true → ¬ s.room sz.bytes → (Instr.store sz d .word (.special .sp) .none).allowed s.ps.m = true →
      exec (.store sz d .word (.special .sp) .none) s = s.raise .stackErr)

/-- What is pushed in stack mode is popped again, SP and every other register but the popped one end as they began, and
of data space only the bytes pushed differ (20_memory.md R71, R73, R74). Below a capacity of 65536 bytes (log 14). -/
def Obligations.PushThenPop : Prop :=
  ∀ (sz : Size) (a b : RegNum) (s : State), s.platform.stacksFit = true → s.ps.sm = true → s.room sz.bytes →
    s.sp.toNat + sz.bytes < 65536 →
    ∃ t u, exec (.store sz (.gp a) .word (.special .sp) .none) s = .next t ∧
      exec (.load sz (.gp b) .word (.special .sp) .none) t = .next u ∧
      StoredAt s t (s.topCells s.sp.toNat).1 (s.topCells s.sp.toNat).2 sz (GpValue s a sz) ∧
      HoldsReg s u sz b (GpValue s a sz) ∧ u = { s with regs := u.regs, pc := s.pc + 4, data := t.data }

/-- IOCTL in, in supervisor mode: the destination operand gets the bytes the ports give, lower port first; the accesses
to peripherals are recorded in order (R216, 20_memory.md R70). What a peripheral supplies is a free value (log 9). -/
def Obligations.IoctlInCompletes : Prop :=
  ∀ (sz : Size) (d : Operand) (db : Size) (n : RegNum) (idx : Index) (s : State),
    (Instr.ioctlIn sz d db (.gp n) idx).allowed s.ps.m = true → s.ps.m = true →
    let port := effectiveAddress ((GpValue s n db).setWidth 16) idx
    port + sz.bytes ≤ s.platform.ioSize →
    ∃ t, exec (.ioctlIn sz d db (.gp n) idx) s = .next t ∧
      WroteOperand { s with ioLog := s.ioLog ++ s.portReads port sz } t
        (s.pc + BitVec.ofNat 16 (encode (.ioctlIn sz d db (.gp n) idx)).length) sz (s.portValue port sz) d

/-- IOCTL out, in supervisor mode: the data register's bytes go to the ports, lower port first, by PS.B, and are
recorded; writes to the descriptor list are discarded; nothing else changes (R217, 60_exceptions.md R286). -/
def Obligations.IoctlOutCompletes : Prop :=
  ∀ (sz : Size) (d : Operand) (db : Size) (n : RegNum) (idx : Index) (s : State),
    (Instr.ioctlOut sz d db (.gp n) idx).allowed s.ps.m = true → s.ps.m = true →
    let port := effectiveAddress ((GpValue s n db).setWidth 16) idx
    let next := s.pc + BitVec.ofNat 16 (encode (.ioctlOut sz d db (.gp n) idx)).length
    port + sz.bytes ≤ s.platform.ioSize →
    exec (.ioctlOut sz d db (.gp n) idx) s =
      .next { s with ioLog := s.ioLog ++ s.portWrites port sz (OperandValue s next sz d), pc := next }

/-- IOCTL with a port at or above IO_SIZE raises AddrErr, before the first port is touched (20_memory.md R70,
60_exceptions.md R274). -/
def Obligations.IoctlTraps : Prop :=
  ∀ (sz : Size) (d : Operand) (db : Size) (n : RegNum) (idx : Index) (s : State), s.ps.m = true →
    s.platform.ioSize < effectiveAddress ((GpValue s n db).setWidth 16) idx + sz.bytes →
    ((Instr.ioctlIn sz d db (.gp n) idx).wellFormed = true →
      exec (.ioctlIn sz d db (.gp n) idx) s = s.raise .addrErr) ∧
    ((Instr.ioctlOut sz d db (.gp n) idx).wellFormed = true →
      exec (.ioctlOut sz d db (.gp n) idx) s = s.raise .addrErr)

/-! ### Control transfer instructions (45_control.md) -/

/-- NOP: one byte 0x00, no operation, no flag; PC passes it (R230). That a code byte nothing has loaded reads as that
erased byte is the model's reading (log 6). -/
def Obligations.NopCompletes : Prop :=
  encode .nop = [0x00] ∧ (∀ rest, decode (0x00 :: rest) = .ok (.nop, rest)) ∧
  (∀ (a : Nat) (s : State), Memory.listed s.code a = none → s.codeByte a = 0x00) ∧
  ∀ (s : State), exec .nop s = .next { s with pc := s.pc + 1 }

/-- Bcc: not taken, PC passes it; taken, PC is the sum of the next address and the displacement, modulo 2^16; with
L = 1 and the branch taken the next address is pushed first, or StackErr raised when the stack is full (R232). An SP of
65536 after the push is 0 by the model's reading (log 14). -/
def Obligations.BccCompletes : Prop :=
  ∀ (link : Bool) (cc : Cond) (disp : Imm) (s : State), cc ≠ .reserved → s.platform.stacksFit = true →
    let next := s.pc + BitVec.ofNat 16 (encode (.bcc link cc disp)).length
    let target := next + (match disp with
      | .short d => d.signExtend 16
      | .long d => d)
    (s.flags.cond cc = false → exec (.bcc link cc disp) s = .next { s with pc := next }) ∧
    (s.flags.cond cc = true → link = false → exec (.bcc link cc disp) s = .next { s with pc := target }) ∧
    (s.flags.cond cc = true → link = true → s.room 2 →
      ∃ t, exec (.bcc link cc disp) s = .next t ∧ PushedThenAt s t .word next target) ∧
    (s.flags.cond cc = true → link = true → ¬ s.room 2 → exec (.bcc link cc disp) s = s.raise .stackErr)

/-- JSR pushes the address after it and jumps to the register, read before the push and zero-extended, or raises
StackErr when the stack is full (R233). An SP of 65536 after the push is 0 by the model's reading (log 14). -/
def Obligations.JsrCompletes : Prop :=
  ∀ (sz : Size) (rd : RegNum) (s : State), s.platform.stacksFit = true →
    (s.room 2 → ∃ t, exec (.jsr sz rd) s = .next t ∧
      PushedThenAt s t .word (s.pc + 2) ((GpValue s rd sz).setWidth 16)) ∧
    (¬ s.room 2 → exec (.jsr sz rd) s = s.raise .stackErr)

/-- RET inside a module pops PC; RET by a `lib` record also restores the caller's module and removes the record; RET
that no `vm` record matches, with fewer than two bytes to pop or SP above the capacity, raises StackErr (R234;
20_memory.md R74). An `idle` record is never one RET returns by (log 10). -/
def Obligations.RetCompletes : Prop :=
  ∀ (s : State), s.platform.stacksFit = true →
    (¬ s.linkMatches → s.holds 2 → exec .ret s = .next { s.withSp (s.sp - 2) with pc := s.poppedWord }) ∧
    (∀ c more, s.link = ⟨.lib, some c, s.curStack, s.sp⟩ :: more → s.holds 2 →
      exec .ret s = .next { s.withSp (s.sp - 2) with pc := s.poppedWord, cm := c, link := more }) ∧
    ((∀ r, s.link.head? = some r → ¬ (r.kind = .vm ∧ r.stack = s.curStack ∧ r.sp = s.sp)) → ¬ s.holds 2 →
      exec .ret s = s.raise .stackErr)

/-- RET by a `vm` record pops nothing and returns to the VM: after the kernel the default application starts in user
mode at offset 0 with its own `vm` record, or the VM sleeps; after the application the VM sleeps if there is a kernel
and halts if not (R234, 70_reset_and_hazards.md R300 to R302). PC and CM of a machine that runs no module are left
open here (log 22). -/
def Obligations.RetToVmCompletes : Prop :=
  ∀ (s : State) (more : List LinkRec), s.link = ⟨.vm, none, s.curStack, s.sp⟩ :: more →
    (∀ a, s.vmPhase = .kernel → s.defaultApp = some a →
      exec .ret s = .next { s with
        ps := { s.ps with m := false }
        cm := a
        pc := 0
        link := ⟨.vm, none, .usr, s.usp⟩ :: more
        run := .running
        vmPhase := .application }) ∧
    ((s.vmPhase = .kernel ∧ s.defaultApp = none) ∨ (s.vmPhase = .application ∧ s.kernel ≠ none) →
      ∃ t, exec .ret s = .next t ∧
        t = { s with ps := { s.ps with m := true }, link := more, run := .vmSleep, pc := t.pc, cm := t.cm }) ∧
    (s.vmPhase = .application → s.kernel = none →
      ∃ t, exec .ret s = .next t ∧ t = { s with link := more, run := .halted, pc := t.pc, cm := t.cm })

/-- LIBCALL and LIBCALLX: the next address pushed, a `lib` record with the SP after the push and the caller's module on
LINK, CM the lowest-numbered module of the imported name, PC its export (R235 to R237, 20_memory.md R81). An SP of
65536 after the push is 0, in SP and in the record, by the model's reading (log 14). -/
def Obligations.LibcallCompletes : Prop :=
  ∀ (s : State) (i f k : Nat) (c x : Module) (nm : List Byte) (off : Word),
    s.platform.stacksFit = true → s.curModule = some c → c.imports[i]? = some nm → s.mods[k]? = some x → x.name = nm →
    (∀ (j : Nat) (y : Module), j < k → s.mods[j]? = some y → y.name ≠ nm) → x.exports[f]? = some off → s.room 2 →
    let Called (ins : Instr) (next : Word) : Prop :=
      ∃ t u, exec ins s = .next t ∧ PushedThenAt s u .word next off ∧
        t = { u with cm := BitVec.ofNat 8 k, link := ⟨.lib, some s.cm, s.curStack, s.sp + 2⟩ :: s.link }
    (∀ (imp : BitVec 4) (fn : BitVec 6), imp.toNat = i → fn.toNat = f → Called (.libcall imp fn) (s.pc + 2)) ∧
    (∀ (imp fn : Byte), imp.toNat = i → fn.toNat = f → Called (.libcallx imp fn) (s.pc + 3))

/-- LIBCALL and LIBCALLX raise ModNotFound for an import index beyond the import table or a name no module has,
AddrErr for a function beyond the library's exports, StackErr when the stack is full (R237, 20_memory.md R81). -/
def Obligations.LibcallTraps : Prop :=
  ∀ (s : State) (i f : Nat) (c : Module), s.curModule = some c →
    let Raises (e : Exc) : Prop :=
      (∀ (imp : BitVec 4) (fn : BitVec 6), imp.toNat = i → fn.toNat = f → exec (.libcall imp fn) s = s.raise e) ∧
      (∀ (imp fn : Byte), imp.toNat = i → fn.toNat = f → exec (.libcallx imp fn) s = s.raise e)
    (c.imports.length ≤ i → Raises .modNotFound) ∧
    (∀ nm, c.imports[i]? = some nm → (∀ y ∈ s.mods, y.name ≠ nm) → Raises .modNotFound) ∧
    (∀ (nm : List Byte) (k : Nat) (x : Module), c.imports[i]? = some nm → s.mods[k]? = some x → x.name = nm →
      (∀ (j : Nat) (y : Module), j < k → s.mods[j]? = some y → y.name ≠ nm) →
      (x.exports.length ≤ f → Raises .addrErr) ∧
      (f < x.exports.length → ¬ s.room 2 → Raises .stackErr))

/-- A LIBCALL or LIBCALLX and the RET that meets its record leave the machine past the call with every register, flag,
stack pointer and link record as before; only the two bytes the call pushed differ (R234, R237). Below a capacity of
65536 bytes (log 14). -/
def Obligations.LibcallThenRet : Prop :=
  ∀ (i : Instr) (s t : State), (∃ imp fn, i = .libcall imp fn) ∨ (∃ imp fn, i = .libcallx imp fn) →
    s.platform.stacksFit = true → s.sp.toNat + 2 < 65536 →
    exec i s = .next t → t.link.length = s.link.length + 1 → t.boots = s.boots →
    SameDataBut [s.stackAddr s.curStack s.sp.toNat, s.stackAddr s.curStack (s.sp.toNat + 1)] s t ∧
    exec .ret t = .next { s with pc := s.pc + BitVec.ofNat 16 i.length, data := t.data }

/-! ### Exceptions, traps and system instructions (60_exceptions.md, 46_system.md) -/

/-- Entering a handler: TRAP enters export 16 + n with the address after it, an exception its own export with the
address of the faulting instruction, each with the frame, supervisor mode and the I bit kept; without a handler the
system reboots (46_system.md R251; R261, R266, R267, R269, R273). An SSP of 65536 after the frame is 0 by the model's
reading (log 14). -/
def Obligations.EventEntersHandler : Prop :=
  ∀ (s : State), s.platform.stacksFit = true →
    (∀ num : BitVec 4, s.canEnter (16 + num.toNat) →
      ∃ t, exec (.trap num) s = .next t ∧ Entered s t (16 + num.toNat) (s.pc + 2) true) ∧
    (∀ num : BitVec 4, ¬ s.canEnter (16 + num.toNat) → exec (.trap num) s = .next s.reboot) ∧
    (∀ e k, (e, k) ∈ [(Exc.divZero, 0), (.badInstr, 1), (.addrErr, 2), (.stackErr, 3), (.modNotFound, 4)] →
      (s.canEnter k → ∃ t, s.raise e = .next t ∧ Entered s t k s.pc true) ∧
      (¬ s.canEnter k → s.raise e = .next s.reboot))

/-- RETI in supervisor mode: PS, CM and PC from the frame, SSP down by 4, nothing else; with an `idle` record of the
same SSP it restores PS with M = 1, removes the record and returns to the VM's sleep state (PC and CM are then left
open, log 22); with fewer than 4 bytes on the stack, or SSP above the capacity, it raises StackErr (46_system.md R250,
R272; 20_memory.md R74). -/
def Obligations.RetiCompletes : Prop :=
  ∀ (s : State), s.platform.stacksFit = true → s.ps.m = true →
    let psByte := s.dataByte (s.stackAddr .sup (s.ssp.toNat - 1))
    let popped : Status :=
      ⟨psByte.getLsbD 0, psByte.getLsbD 1, psByte.getLsbD 2, psByte.getLsbD 3, psByte.getLsbD 4⟩
    (4 ≤ s.ssp.toNat → s.ssp.toNat ≤ s.platform.sizeS →
      (∀ r, s.link.head? = some r → ¬ (r.kind = .idle ∧ r.sp = s.ssp)) →
      exec .reti s = .next { s with
        ssp := s.ssp - 4
        ps := popped
        cm := s.dataByte (s.stackAddr .sup (s.ssp.toNat - 2))
        pc := s.valueAt (s.stackAddr .sup (s.ssp.toNat - 4)) (s.stackAddr .sup (s.ssp.toNat - 3)) .word }) ∧
    (∀ r more, 4 ≤ s.ssp.toNat → s.ssp.toNat ≤ s.platform.sizeS → s.link = r :: more → r.kind = .idle → r.sp = s.ssp →
      ∃ t, exec .reti s = .next t ∧
        t = { s with
          ssp := s.ssp - 4
          ps := { popped with m := true }
          link := more
          run := .vmSleep
          pc := t.pc
          cm := t.cm }) ∧
    (s.ssp.toNat < 4 ∨ s.platform.sizeS < s.ssp.toNat → exec .reti s = s.raise .stackErr)

/-- A TRAP and the RETI of its handler leave the machine past the TRAP in the mode, module and state it was in; only
the four bytes of the frame differ (46_system.md R250, R251; R266). Below a capacity of 65536 bytes (log 14). -/
def Obligations.TrapThenReti : Prop :=
  ∀ (num : BitVec 4) (s : State), s.platform.stacksFit = true → s.canEnter (16 + num.toNat) →
    s.ssp.toNat + 4 < 65536 → (∀ r, s.link.head? = some r → ¬ (r.kind = .idle ∧ r.sp = s.ssp + 4)) →
    ∃ t, exec (.trap num) s = .next t ∧
      SameDataBut [s.stackAddr .sup s.ssp.toNat, s.stackAddr .sup (s.ssp.toNat + 1),
        s.stackAddr .sup (s.ssp.toNat + 2), s.stackAddr .sup (s.ssp.toNat + 3)] s t ∧
      exec .reti t = .next { s with pc := s.pc + 2, data := t.data }

/-- SLEEP passes itself and puts the machine to sleep, in both modes; nothing else changes (R253). -/
def Obligations.SleepCompletes : Prop :=
  ∀ (s : State), exec .sleep s = .next { s with pc := s.pc + 2, run := .asleep }

/-- RESET, in both modes, runs the boot sequence: SSP, USP, T, I, B, SM 0, PENDING empty, code space and the registry
kept; the kernel starts in supervisor mode at offset 0, else the default application in supervisor mode, else the
system halts (46_system.md R252; 70_reset_and_hazards.md R300, R301, R305). R0 to R7, FP, AS, data space and the BSS
places are free values, of which nothing is said (log 4). -/
def Obligations.ResetCompletes : Prop :=
  ∀ (s : State), ∃ t, exec .reset s = .next t ∧ t = s.reboot ∧
    t.ssp = 0 ∧ t.usp = 0 ∧ t.ps.t = false ∧ t.ps.i = false ∧ t.ps.b = false ∧ t.ps.sm = false ∧ t.pending = [] ∧
    t.code = s.code ∧ t.platform = s.platform ∧
    t.mods.map (fun m => { m with bssBase := 0 }) = s.mods.map (fun m => { m with bssBase := 0 }) ∧
    (∀ k, s.kernel = some k → t.run = .running ∧ t.cm = k ∧ t.pc = 0 ∧ t.ps.m = true ∧ t.vmPhase = .kernel ∧
      t.link = [⟨.vm, none, .sup, 0⟩]) ∧
    (∀ a, s.kernel = none → s.defaultApp = some a → t.run = .running ∧ t.cm = a ∧ t.pc = 0 ∧ t.ps.m = true ∧
      t.vmPhase = .application ∧ t.link = [⟨.vm, none, .sup, 0⟩]) ∧
    (s.kernel = none → s.defaultApp = none → t.run = .halted ∧ t.link = [])

end
end

