-- ==== Sys2Proof/Laws/Memory.lean ====
section
/-! SUPPORT. Memory: what a read gives after a write, and that every operation keeps the canonical form. -/

namespace Sys2Proof.Machine

/-! ### Listing and unlisting -/

theorem Memory.listed_put (m : Memory) (k a : Nat) (v : Byte) :
    Memory.listed (Memory.put m k v) a = if a = k then some v else Memory.listed m a := by
  induction m with
  | nil => simp [Memory.put, Memory.listed]
  | cons c rest ih =>
    obtain ⟨b, w⟩ := c
    unfold Memory.put
    split
    · simp [Memory.listed]
    · split
      · rename_i h
        subst h
        by_cases ha : a = k <;> simp [Memory.listed, ha]
      · rename_i h1 h2
        simp only [Memory.listed, ih]
        by_cases ha : a = k
        · simp [ha, h2]
        · simp [ha]

theorem Memory.listed_eq_none_of_risingFrom (m : Memory) (lo a : Nat) (h : Memory.risingFrom lo m = true)
    (ha : a < lo) : Memory.listed m a = none := by
  induction m generalizing lo with
  | nil => rfl
  | cons c rest ih =>
    obtain ⟨b, w⟩ := c
    simp only [Memory.risingFrom, Bool.and_eq_true, decide_eq_true_eq] at h
    have hne : a ≠ b := by omega
    simp only [Memory.listed, hne, if_false]
    exact ih (b + 1) h.2 (by omega)

theorem Memory.listed_remove (m : Memory) (lo k a : Nat) (h : Memory.risingFrom lo m = true) :
    Memory.listed (Memory.remove m k) a = if a = k then none else Memory.listed m a := by
  induction m generalizing lo with
  | nil => simp [Memory.remove, Memory.listed]
  | cons c rest ih =>
    obtain ⟨b, w⟩ := c
    simp only [Memory.risingFrom, Bool.and_eq_true, decide_eq_true_eq] at h
    unfold Memory.remove
    split
    · rename_i hk
      subst hk
      by_cases ha : a = k
      · subst ha
        simpa [Memory.listed] using Memory.listed_eq_none_of_risingFrom rest (a + 1) a h.2 (by omega)
      · simp [Memory.listed, ha]
    · rename_i hk
      simp only [Memory.listed, ih (b + 1) h.2]
      by_cases ha : a = k
      · simp [ha, hk]
      · simp [ha]

/-! ### The canonical form -/

theorem Memory.risingFrom_mono (m : Memory) (lo lo' : Nat) (hle : lo' ≤ lo) (h : Memory.risingFrom lo m = true) :
    Memory.risingFrom lo' m = true := by
  cases m with
  | nil => rfl
  | cons c rest =>
    simp only [Memory.risingFrom, Bool.and_eq_true, decide_eq_true_eq] at h ⊢
    exact ⟨by omega, h.2⟩

theorem Memory.risingFrom_put (m : Memory) (lo k : Nat) (v : Byte) (h : Memory.risingFrom lo m = true) (hk : lo ≤ k) :
    Memory.risingFrom lo (Memory.put m k v) = true := by
  induction m generalizing lo with
  | nil => simp [Memory.put, Memory.risingFrom, hk]
  | cons c rest ih =>
    obtain ⟨b, w⟩ := c
    simp only [Memory.risingFrom, Bool.and_eq_true, decide_eq_true_eq] at h
    unfold Memory.put
    split
    · rename_i hlt
      simp only [Memory.risingFrom, Bool.and_eq_true, decide_eq_true_eq]
      exact ⟨hk, by omega, h.2⟩
    · split
      · rename_i heq
        subst heq
        simp only [Memory.risingFrom, Bool.and_eq_true, decide_eq_true_eq]
        exact ⟨hk, h.2⟩
      · simp only [Memory.risingFrom, Bool.and_eq_true, decide_eq_true_eq]
        exact ⟨h.1, ih (b + 1) h.2 (by omega)⟩

theorem Memory.risingFrom_remove (m : Memory) (lo k : Nat) (h : Memory.risingFrom lo m = true) :
    Memory.risingFrom lo (Memory.remove m k) = true := by
  induction m generalizing lo with
  | nil => rfl
  | cons c rest ih =>
    obtain ⟨b, w⟩ := c
    simp only [Memory.risingFrom, Bool.and_eq_true, decide_eq_true_eq] at h
    unfold Memory.remove
    split
    · exact Memory.risingFrom_mono rest (b + 1) lo (by omega) h.2
    · simp only [Memory.risingFrom, Bool.and_eq_true, decide_eq_true_eq]
      exact ⟨h.1, ih (b + 1) h.2⟩

theorem Memory.mem_put (m : Memory) (k : Nat) (v : Byte) (c : Host.Cell) (hc : c ∈ Memory.put m k v) :
    c = (k, v) ∨ c ∈ m := by
  induction m with
  | nil => simpa [Memory.put] using hc
  | cons d rest ih =>
    obtain ⟨b, w⟩ := d
    unfold Memory.put at hc
    split at hc
    · simpa using hc
    · split at hc
      · rcases List.mem_cons.mp hc with h | h
        · exact .inl h
        · exact .inr (List.mem_cons_of_mem _ h)
      · rcases List.mem_cons.mp hc with h | h
        · exact .inr (h ▸ List.mem_cons_self ..)
        · exact (ih h).imp id (List.mem_cons_of_mem _)

theorem Memory.mem_remove (m : Memory) (k : Nat) (c : Host.Cell) (hc : c ∈ Memory.remove m k) : c ∈ m := by
  induction m with
  | nil => simp [Memory.remove] at hc
  | cons d rest ih =>
    obtain ⟨b, w⟩ := d
    unfold Memory.remove at hc
    split at hc
    · exact List.mem_cons_of_mem _ hc
    · rcases List.mem_cons.mp hc with h | h
      · exact h ▸ List.mem_cons_self ..
      · exact List.mem_cons_of_mem _ (ih h)

theorem Memory.wf_iff (kind : MemKind) (m : Memory) :
    Memory.wf kind m = true ↔ Memory.risingFrom 0 m = true ∧ ∀ c ∈ m, unlisted kind ≠ some c.2 := by
  simp [Memory.wf]

/-- Writing keeps the canonical form. -/
theorem Memory.wf_write (kind : MemKind) (m : Memory) (k : Nat) (v : Byte) (h : Memory.wf kind m = true) :
    Memory.wf kind (Memory.write kind m k v) = true := by
  rw [Memory.wf_iff] at h ⊢
  unfold Memory.write
  split
  · exact ⟨Memory.risingFrom_remove m 0 k h.1, fun c hc => h.2 c (Memory.mem_remove m k c hc)⟩
  · rename_i hv
    refine ⟨Memory.risingFrom_put m 0 k v h.1 (Nat.zero_le k), fun c hc => ?_⟩
    rcases Memory.mem_put m k v c hc with rfl | hm
    · exact hv
    · exact h.2 c hm

/-- Writing below a bound keeps the bound. -/
theorem Memory.below_write (kind : MemKind) (m : Memory) (size k : Nat) (v : Byte) (h : Memory.below size m = true)
    (hk : k < size) : Memory.below size (Memory.write kind m k v) = true := by
  simp only [Memory.below, List.all_eq_true, decide_eq_true_eq] at h ⊢
  intro c hc
  unfold Memory.write at hc
  split at hc
  · exact h c (Memory.mem_remove m k c hc)
  · rcases Memory.mem_put m k v c hc with rfl | hm
    · exact hk
    · exact h c hm

/-- The empty memory is canonical: reset's memories are. -/
@[simp] theorem Memory.wf_nil (kind : MemKind) : Memory.wf kind [] = true := by cases kind <;> rfl

@[simp] theorem Memory.below_nil (size : Nat) : Memory.below size [] = true := rfl

/-! ### Reading after writing -/

/-- Reading back what was written. -/
theorem Memory.read_write_self (kind : MemKind) (m : Memory) (k : Nat) (v : Byte) (h : Memory.wf kind m = true) :
    Memory.read kind (Memory.write kind m k v) k = some v := by
  rw [Memory.wf_iff] at h
  by_cases hv : unlisted kind = some v
  · simp [Memory.read, Memory.write, hv, Memory.listed_remove m 0 k k h.1]
  · simp [Memory.read, Memory.write, hv, Memory.listed_put]

/-- A write leaves every other address alone. -/
theorem Memory.read_write_other (kind : MemKind) (m : Memory) (k a : Nat) (v : Byte) (h : Memory.wf kind m = true)
    (ha : a ≠ k) : Memory.read kind (Memory.write kind m k v) a = Memory.read kind m a := by
  rw [Memory.wf_iff] at h
  by_cases hv : unlisted kind = some v
  · simp [Memory.read, Memory.write, hv, Memory.listed_remove m 0 k a h.1, ha]
  · simp [Memory.read, Memory.write, hv, Memory.listed_put, ha]

/-- In data space nothing is ever unlisted, so reading back needs no canonical form. -/
theorem Memory.read_write_data (m : Memory) (k a : Nat) (v : Byte) :
    Memory.read .data (Memory.write .data m k v) a = if a = k then some v else Memory.read .data m a := by
  have hw : Memory.write .data m k v = Memory.put m k v := by simp [Memory.write, unlisted]
  rw [hw]
  unfold Memory.read
  rw [Memory.listed_put]
  by_cases ha : a = k <;> simp [ha]

end Sys2Proof.Machine
end

