-- ==== Sys2Proof/Laws/State.lean ====
section
/-! SUPPORT. For every one-field update of State, what each field reads afterwards. -/

namespace Sys2Proof.Machine

/-! ### setPc -/

section

variable (s : State) (v : Word)

@[simp] theorem State.setPc_regs : (s.setPc v).regs = s.regs := rfl
@[simp] theorem State.setPc_pc : (s.setPc v).pc = v := rfl
@[simp] theorem State.setPc_ssp : (s.setPc v).ssp = s.ssp := rfl
@[simp] theorem State.setPc_usp : (s.setPc v).usp = s.usp := rfl
@[simp] theorem State.setPc_fp : (s.setPc v).fp = s.fp := rfl
@[simp] theorem State.setPc_flags : (s.setPc v).flags = s.flags := rfl
@[simp] theorem State.setPc_ps : (s.setPc v).ps = s.ps := rfl
@[simp] theorem State.setPc_cm : (s.setPc v).cm = s.cm := rfl
@[simp] theorem State.setPc_link : (s.setPc v).link = s.link := rfl
@[simp] theorem State.setPc_pending : (s.setPc v).pending = s.pending := rfl
@[simp] theorem State.setPc_run : (s.setPc v).run = s.run := rfl
@[simp] theorem State.setPc_vmPhase : (s.setPc v).vmPhase = s.vmPhase := rfl
@[simp] theorem State.setPc_data : (s.setPc v).data = s.data := rfl
@[simp] theorem State.setPc_code : (s.setPc v).code = s.code := rfl
@[simp] theorem State.setPc_mods : (s.setPc v).mods = s.mods := rfl
@[simp] theorem State.setPc_platform : (s.setPc v).platform = s.platform := rfl
@[simp] theorem State.setPc_ioLog : (s.setPc v).ioLog = s.ioLog := rfl
@[simp] theorem State.setPc_inputs : (s.setPc v).inputs = s.inputs := rfl
@[simp] theorem State.setPc_boots : (s.setPc v).boots = s.boots := rfl

end

/-! ### setRegs -/

section

variable (s : State) (v : Vector Byte 8)

@[simp] theorem State.setRegs_regs : (s.setRegs v).regs = v := rfl
@[simp] theorem State.setRegs_pc : (s.setRegs v).pc = s.pc := rfl
@[simp] theorem State.setRegs_ssp : (s.setRegs v).ssp = s.ssp := rfl
@[simp] theorem State.setRegs_usp : (s.setRegs v).usp = s.usp := rfl
@[simp] theorem State.setRegs_fp : (s.setRegs v).fp = s.fp := rfl
@[simp] theorem State.setRegs_flags : (s.setRegs v).flags = s.flags := rfl
@[simp] theorem State.setRegs_ps : (s.setRegs v).ps = s.ps := rfl
@[simp] theorem State.setRegs_cm : (s.setRegs v).cm = s.cm := rfl
@[simp] theorem State.setRegs_link : (s.setRegs v).link = s.link := rfl
@[simp] theorem State.setRegs_pending : (s.setRegs v).pending = s.pending := rfl
@[simp] theorem State.setRegs_run : (s.setRegs v).run = s.run := rfl
@[simp] theorem State.setRegs_vmPhase : (s.setRegs v).vmPhase = s.vmPhase := rfl
@[simp] theorem State.setRegs_data : (s.setRegs v).data = s.data := rfl
@[simp] theorem State.setRegs_code : (s.setRegs v).code = s.code := rfl
@[simp] theorem State.setRegs_mods : (s.setRegs v).mods = s.mods := rfl
@[simp] theorem State.setRegs_platform : (s.setRegs v).platform = s.platform := rfl
@[simp] theorem State.setRegs_ioLog : (s.setRegs v).ioLog = s.ioLog := rfl
@[simp] theorem State.setRegs_inputs : (s.setRegs v).inputs = s.inputs := rfl
@[simp] theorem State.setRegs_boots : (s.setRegs v).boots = s.boots := rfl

end

/-! ### setFlags -/

section

variable (s : State) (v : Flags)

@[simp] theorem State.setFlags_regs : (s.setFlags v).regs = s.regs := rfl
@[simp] theorem State.setFlags_pc : (s.setFlags v).pc = s.pc := rfl
@[simp] theorem State.setFlags_ssp : (s.setFlags v).ssp = s.ssp := rfl
@[simp] theorem State.setFlags_usp : (s.setFlags v).usp = s.usp := rfl
@[simp] theorem State.setFlags_fp : (s.setFlags v).fp = s.fp := rfl
@[simp] theorem State.setFlags_flags : (s.setFlags v).flags = v := rfl
@[simp] theorem State.setFlags_ps : (s.setFlags v).ps = s.ps := rfl
@[simp] theorem State.setFlags_cm : (s.setFlags v).cm = s.cm := rfl
@[simp] theorem State.setFlags_link : (s.setFlags v).link = s.link := rfl
@[simp] theorem State.setFlags_pending : (s.setFlags v).pending = s.pending := rfl
@[simp] theorem State.setFlags_run : (s.setFlags v).run = s.run := rfl
@[simp] theorem State.setFlags_vmPhase : (s.setFlags v).vmPhase = s.vmPhase := rfl
@[simp] theorem State.setFlags_data : (s.setFlags v).data = s.data := rfl
@[simp] theorem State.setFlags_code : (s.setFlags v).code = s.code := rfl
@[simp] theorem State.setFlags_mods : (s.setFlags v).mods = s.mods := rfl
@[simp] theorem State.setFlags_platform : (s.setFlags v).platform = s.platform := rfl
@[simp] theorem State.setFlags_ioLog : (s.setFlags v).ioLog = s.ioLog := rfl
@[simp] theorem State.setFlags_inputs : (s.setFlags v).inputs = s.inputs := rfl
@[simp] theorem State.setFlags_boots : (s.setFlags v).boots = s.boots := rfl

end

/-! ### setPs -/

section

variable (s : State) (v : Status)

@[simp] theorem State.setPs_regs : (s.setPs v).regs = s.regs := rfl
@[simp] theorem State.setPs_pc : (s.setPs v).pc = s.pc := rfl
@[simp] theorem State.setPs_ssp : (s.setPs v).ssp = s.ssp := rfl
@[simp] theorem State.setPs_usp : (s.setPs v).usp = s.usp := rfl
@[simp] theorem State.setPs_fp : (s.setPs v).fp = s.fp := rfl
@[simp] theorem State.setPs_flags : (s.setPs v).flags = s.flags := rfl
@[simp] theorem State.setPs_ps : (s.setPs v).ps = v := rfl
@[simp] theorem State.setPs_cm : (s.setPs v).cm = s.cm := rfl
@[simp] theorem State.setPs_link : (s.setPs v).link = s.link := rfl
@[simp] theorem State.setPs_pending : (s.setPs v).pending = s.pending := rfl
@[simp] theorem State.setPs_run : (s.setPs v).run = s.run := rfl
@[simp] theorem State.setPs_vmPhase : (s.setPs v).vmPhase = s.vmPhase := rfl
@[simp] theorem State.setPs_data : (s.setPs v).data = s.data := rfl
@[simp] theorem State.setPs_code : (s.setPs v).code = s.code := rfl
@[simp] theorem State.setPs_mods : (s.setPs v).mods = s.mods := rfl
@[simp] theorem State.setPs_platform : (s.setPs v).platform = s.platform := rfl
@[simp] theorem State.setPs_ioLog : (s.setPs v).ioLog = s.ioLog := rfl
@[simp] theorem State.setPs_inputs : (s.setPs v).inputs = s.inputs := rfl
@[simp] theorem State.setPs_boots : (s.setPs v).boots = s.boots := rfl

end

/-! ### setCm -/

section

variable (s : State) (v : Byte)

@[simp] theorem State.setCm_regs : (s.setCm v).regs = s.regs := rfl
@[simp] theorem State.setCm_pc : (s.setCm v).pc = s.pc := rfl
@[simp] theorem State.setCm_ssp : (s.setCm v).ssp = s.ssp := rfl
@[simp] theorem State.setCm_usp : (s.setCm v).usp = s.usp := rfl
@[simp] theorem State.setCm_fp : (s.setCm v).fp = s.fp := rfl
@[simp] theorem State.setCm_flags : (s.setCm v).flags = s.flags := rfl
@[simp] theorem State.setCm_ps : (s.setCm v).ps = s.ps := rfl
@[simp] theorem State.setCm_cm : (s.setCm v).cm = v := rfl
@[simp] theorem State.setCm_link : (s.setCm v).link = s.link := rfl
@[simp] theorem State.setCm_pending : (s.setCm v).pending = s.pending := rfl
@[simp] theorem State.setCm_run : (s.setCm v).run = s.run := rfl
@[simp] theorem State.setCm_vmPhase : (s.setCm v).vmPhase = s.vmPhase := rfl
@[simp] theorem State.setCm_data : (s.setCm v).data = s.data := rfl
@[simp] theorem State.setCm_code : (s.setCm v).code = s.code := rfl
@[simp] theorem State.setCm_mods : (s.setCm v).mods = s.mods := rfl
@[simp] theorem State.setCm_platform : (s.setCm v).platform = s.platform := rfl
@[simp] theorem State.setCm_ioLog : (s.setCm v).ioLog = s.ioLog := rfl
@[simp] theorem State.setCm_inputs : (s.setCm v).inputs = s.inputs := rfl
@[simp] theorem State.setCm_boots : (s.setCm v).boots = s.boots := rfl

end

/-! ### setFp -/

section

variable (s : State) (v : Word)

@[simp] theorem State.setFp_regs : (s.setFp v).regs = s.regs := rfl
@[simp] theorem State.setFp_pc : (s.setFp v).pc = s.pc := rfl
@[simp] theorem State.setFp_ssp : (s.setFp v).ssp = s.ssp := rfl
@[simp] theorem State.setFp_usp : (s.setFp v).usp = s.usp := rfl
@[simp] theorem State.setFp_fp : (s.setFp v).fp = v := rfl
@[simp] theorem State.setFp_flags : (s.setFp v).flags = s.flags := rfl
@[simp] theorem State.setFp_ps : (s.setFp v).ps = s.ps := rfl
@[simp] theorem State.setFp_cm : (s.setFp v).cm = s.cm := rfl
@[simp] theorem State.setFp_link : (s.setFp v).link = s.link := rfl
@[simp] theorem State.setFp_pending : (s.setFp v).pending = s.pending := rfl
@[simp] theorem State.setFp_run : (s.setFp v).run = s.run := rfl
@[simp] theorem State.setFp_vmPhase : (s.setFp v).vmPhase = s.vmPhase := rfl
@[simp] theorem State.setFp_data : (s.setFp v).data = s.data := rfl
@[simp] theorem State.setFp_code : (s.setFp v).code = s.code := rfl
@[simp] theorem State.setFp_mods : (s.setFp v).mods = s.mods := rfl
@[simp] theorem State.setFp_platform : (s.setFp v).platform = s.platform := rfl
@[simp] theorem State.setFp_ioLog : (s.setFp v).ioLog = s.ioLog := rfl
@[simp] theorem State.setFp_inputs : (s.setFp v).inputs = s.inputs := rfl
@[simp] theorem State.setFp_boots : (s.setFp v).boots = s.boots := rfl

end

/-! ### setSsp -/

section

variable (s : State) (v : Word)

@[simp] theorem State.setSsp_regs : (s.setSsp v).regs = s.regs := rfl
@[simp] theorem State.setSsp_pc : (s.setSsp v).pc = s.pc := rfl
@[simp] theorem State.setSsp_ssp : (s.setSsp v).ssp = v := rfl
@[simp] theorem State.setSsp_usp : (s.setSsp v).usp = s.usp := rfl
@[simp] theorem State.setSsp_fp : (s.setSsp v).fp = s.fp := rfl
@[simp] theorem State.setSsp_flags : (s.setSsp v).flags = s.flags := rfl
@[simp] theorem State.setSsp_ps : (s.setSsp v).ps = s.ps := rfl
@[simp] theorem State.setSsp_cm : (s.setSsp v).cm = s.cm := rfl
@[simp] theorem State.setSsp_link : (s.setSsp v).link = s.link := rfl
@[simp] theorem State.setSsp_pending : (s.setSsp v).pending = s.pending := rfl
@[simp] theorem State.setSsp_run : (s.setSsp v).run = s.run := rfl
@[simp] theorem State.setSsp_vmPhase : (s.setSsp v).vmPhase = s.vmPhase := rfl
@[simp] theorem State.setSsp_data : (s.setSsp v).data = s.data := rfl
@[simp] theorem State.setSsp_code : (s.setSsp v).code = s.code := rfl
@[simp] theorem State.setSsp_mods : (s.setSsp v).mods = s.mods := rfl
@[simp] theorem State.setSsp_platform : (s.setSsp v).platform = s.platform := rfl
@[simp] theorem State.setSsp_ioLog : (s.setSsp v).ioLog = s.ioLog := rfl
@[simp] theorem State.setSsp_inputs : (s.setSsp v).inputs = s.inputs := rfl
@[simp] theorem State.setSsp_boots : (s.setSsp v).boots = s.boots := rfl

end

/-! ### setUsp -/

section

variable (s : State) (v : Word)

@[simp] theorem State.setUsp_regs : (s.setUsp v).regs = s.regs := rfl
@[simp] theorem State.setUsp_pc : (s.setUsp v).pc = s.pc := rfl
@[simp] theorem State.setUsp_ssp : (s.setUsp v).ssp = s.ssp := rfl
@[simp] theorem State.setUsp_usp : (s.setUsp v).usp = v := rfl
@[simp] theorem State.setUsp_fp : (s.setUsp v).fp = s.fp := rfl
@[simp] theorem State.setUsp_flags : (s.setUsp v).flags = s.flags := rfl
@[simp] theorem State.setUsp_ps : (s.setUsp v).ps = s.ps := rfl
@[simp] theorem State.setUsp_cm : (s.setUsp v).cm = s.cm := rfl
@[simp] theorem State.setUsp_link : (s.setUsp v).link = s.link := rfl
@[simp] theorem State.setUsp_pending : (s.setUsp v).pending = s.pending := rfl
@[simp] theorem State.setUsp_run : (s.setUsp v).run = s.run := rfl
@[simp] theorem State.setUsp_vmPhase : (s.setUsp v).vmPhase = s.vmPhase := rfl
@[simp] theorem State.setUsp_data : (s.setUsp v).data = s.data := rfl
@[simp] theorem State.setUsp_code : (s.setUsp v).code = s.code := rfl
@[simp] theorem State.setUsp_mods : (s.setUsp v).mods = s.mods := rfl
@[simp] theorem State.setUsp_platform : (s.setUsp v).platform = s.platform := rfl
@[simp] theorem State.setUsp_ioLog : (s.setUsp v).ioLog = s.ioLog := rfl
@[simp] theorem State.setUsp_inputs : (s.setUsp v).inputs = s.inputs := rfl
@[simp] theorem State.setUsp_boots : (s.setUsp v).boots = s.boots := rfl

end

/-! ### setLink -/

section

variable (s : State) (v : List LinkRec)

@[simp] theorem State.setLink_regs : (s.setLink v).regs = s.regs := rfl
@[simp] theorem State.setLink_pc : (s.setLink v).pc = s.pc := rfl
@[simp] theorem State.setLink_ssp : (s.setLink v).ssp = s.ssp := rfl
@[simp] theorem State.setLink_usp : (s.setLink v).usp = s.usp := rfl
@[simp] theorem State.setLink_fp : (s.setLink v).fp = s.fp := rfl
@[simp] theorem State.setLink_flags : (s.setLink v).flags = s.flags := rfl
@[simp] theorem State.setLink_ps : (s.setLink v).ps = s.ps := rfl
@[simp] theorem State.setLink_cm : (s.setLink v).cm = s.cm := rfl
@[simp] theorem State.setLink_link : (s.setLink v).link = v := rfl
@[simp] theorem State.setLink_pending : (s.setLink v).pending = s.pending := rfl
@[simp] theorem State.setLink_run : (s.setLink v).run = s.run := rfl
@[simp] theorem State.setLink_vmPhase : (s.setLink v).vmPhase = s.vmPhase := rfl
@[simp] theorem State.setLink_data : (s.setLink v).data = s.data := rfl
@[simp] theorem State.setLink_code : (s.setLink v).code = s.code := rfl
@[simp] theorem State.setLink_mods : (s.setLink v).mods = s.mods := rfl
@[simp] theorem State.setLink_platform : (s.setLink v).platform = s.platform := rfl
@[simp] theorem State.setLink_ioLog : (s.setLink v).ioLog = s.ioLog := rfl
@[simp] theorem State.setLink_inputs : (s.setLink v).inputs = s.inputs := rfl
@[simp] theorem State.setLink_boots : (s.setLink v).boots = s.boots := rfl

end

/-! ### setPending -/

section

variable (s : State) (v : List Nat)

@[simp] theorem State.setPending_regs : (s.setPending v).regs = s.regs := rfl
@[simp] theorem State.setPending_pc : (s.setPending v).pc = s.pc := rfl
@[simp] theorem State.setPending_ssp : (s.setPending v).ssp = s.ssp := rfl
@[simp] theorem State.setPending_usp : (s.setPending v).usp = s.usp := rfl
@[simp] theorem State.setPending_fp : (s.setPending v).fp = s.fp := rfl
@[simp] theorem State.setPending_flags : (s.setPending v).flags = s.flags := rfl
@[simp] theorem State.setPending_ps : (s.setPending v).ps = s.ps := rfl
@[simp] theorem State.setPending_cm : (s.setPending v).cm = s.cm := rfl
@[simp] theorem State.setPending_link : (s.setPending v).link = s.link := rfl
@[simp] theorem State.setPending_pending : (s.setPending v).pending = v := rfl
@[simp] theorem State.setPending_run : (s.setPending v).run = s.run := rfl
@[simp] theorem State.setPending_vmPhase : (s.setPending v).vmPhase = s.vmPhase := rfl
@[simp] theorem State.setPending_data : (s.setPending v).data = s.data := rfl
@[simp] theorem State.setPending_code : (s.setPending v).code = s.code := rfl
@[simp] theorem State.setPending_mods : (s.setPending v).mods = s.mods := rfl
@[simp] theorem State.setPending_platform : (s.setPending v).platform = s.platform := rfl
@[simp] theorem State.setPending_ioLog : (s.setPending v).ioLog = s.ioLog := rfl
@[simp] theorem State.setPending_inputs : (s.setPending v).inputs = s.inputs := rfl
@[simp] theorem State.setPending_boots : (s.setPending v).boots = s.boots := rfl

end

/-! ### setRun -/

section

variable (s : State) (v : RunState)

@[simp] theorem State.setRun_regs : (s.setRun v).regs = s.regs := rfl
@[simp] theorem State.setRun_pc : (s.setRun v).pc = s.pc := rfl
@[simp] theorem State.setRun_ssp : (s.setRun v).ssp = s.ssp := rfl
@[simp] theorem State.setRun_usp : (s.setRun v).usp = s.usp := rfl
@[simp] theorem State.setRun_fp : (s.setRun v).fp = s.fp := rfl
@[simp] theorem State.setRun_flags : (s.setRun v).flags = s.flags := rfl
@[simp] theorem State.setRun_ps : (s.setRun v).ps = s.ps := rfl
@[simp] theorem State.setRun_cm : (s.setRun v).cm = s.cm := rfl
@[simp] theorem State.setRun_link : (s.setRun v).link = s.link := rfl
@[simp] theorem State.setRun_pending : (s.setRun v).pending = s.pending := rfl
@[simp] theorem State.setRun_run : (s.setRun v).run = v := rfl
@[simp] theorem State.setRun_vmPhase : (s.setRun v).vmPhase = s.vmPhase := rfl
@[simp] theorem State.setRun_data : (s.setRun v).data = s.data := rfl
@[simp] theorem State.setRun_code : (s.setRun v).code = s.code := rfl
@[simp] theorem State.setRun_mods : (s.setRun v).mods = s.mods := rfl
@[simp] theorem State.setRun_platform : (s.setRun v).platform = s.platform := rfl
@[simp] theorem State.setRun_ioLog : (s.setRun v).ioLog = s.ioLog := rfl
@[simp] theorem State.setRun_inputs : (s.setRun v).inputs = s.inputs := rfl
@[simp] theorem State.setRun_boots : (s.setRun v).boots = s.boots := rfl

end

/-! ### setVmPhase -/

section

variable (s : State) (v : VmPhase)

@[simp] theorem State.setVmPhase_regs : (s.setVmPhase v).regs = s.regs := rfl
@[simp] theorem State.setVmPhase_pc : (s.setVmPhase v).pc = s.pc := rfl
@[simp] theorem State.setVmPhase_ssp : (s.setVmPhase v).ssp = s.ssp := rfl
@[simp] theorem State.setVmPhase_usp : (s.setVmPhase v).usp = s.usp := rfl
@[simp] theorem State.setVmPhase_fp : (s.setVmPhase v).fp = s.fp := rfl
@[simp] theorem State.setVmPhase_flags : (s.setVmPhase v).flags = s.flags := rfl
@[simp] theorem State.setVmPhase_ps : (s.setVmPhase v).ps = s.ps := rfl
@[simp] theorem State.setVmPhase_cm : (s.setVmPhase v).cm = s.cm := rfl
@[simp] theorem State.setVmPhase_link : (s.setVmPhase v).link = s.link := rfl
@[simp] theorem State.setVmPhase_pending : (s.setVmPhase v).pending = s.pending := rfl
@[simp] theorem State.setVmPhase_run : (s.setVmPhase v).run = s.run := rfl
@[simp] theorem State.setVmPhase_vmPhase : (s.setVmPhase v).vmPhase = v := rfl
@[simp] theorem State.setVmPhase_data : (s.setVmPhase v).data = s.data := rfl
@[simp] theorem State.setVmPhase_code : (s.setVmPhase v).code = s.code := rfl
@[simp] theorem State.setVmPhase_mods : (s.setVmPhase v).mods = s.mods := rfl
@[simp] theorem State.setVmPhase_platform : (s.setVmPhase v).platform = s.platform := rfl
@[simp] theorem State.setVmPhase_ioLog : (s.setVmPhase v).ioLog = s.ioLog := rfl
@[simp] theorem State.setVmPhase_inputs : (s.setVmPhase v).inputs = s.inputs := rfl
@[simp] theorem State.setVmPhase_boots : (s.setVmPhase v).boots = s.boots := rfl

end

/-! ### setData -/

section

variable (s : State) (v : Memory)

@[simp] theorem State.setData_regs : (s.setData v).regs = s.regs := rfl
@[simp] theorem State.setData_pc : (s.setData v).pc = s.pc := rfl
@[simp] theorem State.setData_ssp : (s.setData v).ssp = s.ssp := rfl
@[simp] theorem State.setData_usp : (s.setData v).usp = s.usp := rfl
@[simp] theorem State.setData_fp : (s.setData v).fp = s.fp := rfl
@[simp] theorem State.setData_flags : (s.setData v).flags = s.flags := rfl
@[simp] theorem State.setData_ps : (s.setData v).ps = s.ps := rfl
@[simp] theorem State.setData_cm : (s.setData v).cm = s.cm := rfl
@[simp] theorem State.setData_link : (s.setData v).link = s.link := rfl
@[simp] theorem State.setData_pending : (s.setData v).pending = s.pending := rfl
@[simp] theorem State.setData_run : (s.setData v).run = s.run := rfl
@[simp] theorem State.setData_vmPhase : (s.setData v).vmPhase = s.vmPhase := rfl
@[simp] theorem State.setData_data : (s.setData v).data = v := rfl
@[simp] theorem State.setData_code : (s.setData v).code = s.code := rfl
@[simp] theorem State.setData_mods : (s.setData v).mods = s.mods := rfl
@[simp] theorem State.setData_platform : (s.setData v).platform = s.platform := rfl
@[simp] theorem State.setData_ioLog : (s.setData v).ioLog = s.ioLog := rfl
@[simp] theorem State.setData_inputs : (s.setData v).inputs = s.inputs := rfl
@[simp] theorem State.setData_boots : (s.setData v).boots = s.boots := rfl

end

/-! ### setIoLog -/

section

variable (s : State) (v : List IoEvent)

@[simp] theorem State.setIoLog_regs : (s.setIoLog v).regs = s.regs := rfl
@[simp] theorem State.setIoLog_pc : (s.setIoLog v).pc = s.pc := rfl
@[simp] theorem State.setIoLog_ssp : (s.setIoLog v).ssp = s.ssp := rfl
@[simp] theorem State.setIoLog_usp : (s.setIoLog v).usp = s.usp := rfl
@[simp] theorem State.setIoLog_fp : (s.setIoLog v).fp = s.fp := rfl
@[simp] theorem State.setIoLog_flags : (s.setIoLog v).flags = s.flags := rfl
@[simp] theorem State.setIoLog_ps : (s.setIoLog v).ps = s.ps := rfl
@[simp] theorem State.setIoLog_cm : (s.setIoLog v).cm = s.cm := rfl
@[simp] theorem State.setIoLog_link : (s.setIoLog v).link = s.link := rfl
@[simp] theorem State.setIoLog_pending : (s.setIoLog v).pending = s.pending := rfl
@[simp] theorem State.setIoLog_run : (s.setIoLog v).run = s.run := rfl
@[simp] theorem State.setIoLog_vmPhase : (s.setIoLog v).vmPhase = s.vmPhase := rfl
@[simp] theorem State.setIoLog_data : (s.setIoLog v).data = s.data := rfl
@[simp] theorem State.setIoLog_code : (s.setIoLog v).code = s.code := rfl
@[simp] theorem State.setIoLog_mods : (s.setIoLog v).mods = s.mods := rfl
@[simp] theorem State.setIoLog_platform : (s.setIoLog v).platform = s.platform := rfl
@[simp] theorem State.setIoLog_ioLog : (s.setIoLog v).ioLog = v := rfl
@[simp] theorem State.setIoLog_inputs : (s.setIoLog v).inputs = s.inputs := rfl
@[simp] theorem State.setIoLog_boots : (s.setIoLog v).boots = s.boots := rfl

end

/-! ### setInputs -/

section

variable (s : State) (v : List EnvInput)

@[simp] theorem State.setInputs_regs : (s.setInputs v).regs = s.regs := rfl
@[simp] theorem State.setInputs_pc : (s.setInputs v).pc = s.pc := rfl
@[simp] theorem State.setInputs_ssp : (s.setInputs v).ssp = s.ssp := rfl
@[simp] theorem State.setInputs_usp : (s.setInputs v).usp = s.usp := rfl
@[simp] theorem State.setInputs_fp : (s.setInputs v).fp = s.fp := rfl
@[simp] theorem State.setInputs_flags : (s.setInputs v).flags = s.flags := rfl
@[simp] theorem State.setInputs_ps : (s.setInputs v).ps = s.ps := rfl
@[simp] theorem State.setInputs_cm : (s.setInputs v).cm = s.cm := rfl
@[simp] theorem State.setInputs_link : (s.setInputs v).link = s.link := rfl
@[simp] theorem State.setInputs_pending : (s.setInputs v).pending = s.pending := rfl
@[simp] theorem State.setInputs_run : (s.setInputs v).run = s.run := rfl
@[simp] theorem State.setInputs_vmPhase : (s.setInputs v).vmPhase = s.vmPhase := rfl
@[simp] theorem State.setInputs_data : (s.setInputs v).data = s.data := rfl
@[simp] theorem State.setInputs_code : (s.setInputs v).code = s.code := rfl
@[simp] theorem State.setInputs_mods : (s.setInputs v).mods = s.mods := rfl
@[simp] theorem State.setInputs_platform : (s.setInputs v).platform = s.platform := rfl
@[simp] theorem State.setInputs_ioLog : (s.setInputs v).ioLog = s.ioLog := rfl
@[simp] theorem State.setInputs_inputs : (s.setInputs v).inputs = v := rfl
@[simp] theorem State.setInputs_boots : (s.setInputs v).boots = s.boots := rfl

end

end Sys2Proof.Machine
end

