-- ==== Sys2Proof/Laws/Ops.lean ====
section
/-! SUPPORT. What each shared operation can answer: one lemma per operation of Machine/Ops.lean, to cite instead of
unfolding it. -/

namespace Sys2Proof.Machine

/-! ### Chains of operations -/

/-- A chain answers exactly when its first operation does and the rest does with its answer. -/
theorem try_bind_ok {α β : Type} {x : Try α} {f : α → Try β} {b : β} :
    (x >>= f) = .ok b ↔ ∃ a, x = .ok a ∧ f a = .ok b := by
  cases x <;> simp [bind, Except.bind]

/-- A chain stops where its first operation stops, or later. -/
theorem try_bind_error {α β : Type} {x : Try α} {f : α → Try β} {e : Abort} :
    (x >>= f) = .error e ↔ x = .error e ∨ ∃ a, x = .ok a ∧ f a = .error e := by
  cases x <;> simp [bind, Except.bind]

@[simp] theorem try_ok_bind {α β : Type} (a : α) (f : α → Try β) : ((.ok a : Try α) >>= f) = f a := rfl

@[simp] theorem try_error_bind {α β : Type} (e : Abort) (f : α → Try β) : ((.error e : Try α) >>= f) = .error e := rfl

@[simp] theorem need_true (e : Exc) : need e true = .ok () := rfl

@[simp] theorem need_false (e : Exc) : need e false = .error (.raise e) := rfl

/-- A check passes exactly when its condition holds. -/
theorem need_ok (e : Exc) (b : Bool) (u : Unit) : need e b = .ok u ↔ b = true := by cases b <;> simp [need]

/-- A check raises its own exception and nothing else. -/
theorem need_error (e : Exc) (b : Bool) (x : Abort) : need e b = .error x ↔ b = false ∧ x = .raise e := by
  cases b <;> simp [need, eq_comm]

/-! ### Bytes of data space -/

/-- A byte read depends on data space and the boot count alone. -/
theorem State.dataByte_congr {s t : State} (hd : t.data = s.data) (hb : t.boots = s.boots) (a : Nat) :
    t.dataByte a = s.dataByte a := by
  simp [State.dataByte, hd, hb]

@[simp] theorem State.putData_boots (s : State) (k : Nat) (v : Byte) : (s.putData k v).boots = s.boots := rfl

@[simp] theorem State.putData_ps (s : State) (k : Nat) (v : Byte) : (s.putData k v).ps = s.ps := rfl

/-- Storing a byte changes data space alone. -/
theorem State.putData_eq (s : State) (k : Nat) (v : Byte) :
    s.putData k v = { s with data := (s.putData k v).data } := rfl

/-- Reading a byte back after storing one. -/
theorem State.dataByte_putData (s : State) (k a : Nat) (v : Byte) :
    (s.putData k v).dataByte a = if a = k then v else s.dataByte a := by
  simp only [State.dataByte, State.putData, State.setData, Memory.read_write_data]
  split <;> rfl

/-! ### Cells -/

/-- Which real addresses data space has. -/
theorem State.inData_ok {s : State} {a c : Nat} : s.inData a = .ok c ↔ c = a ∧ a < s.platform.dataSize := by
  simp only [State.inData, try_bind_ok, need_ok, decide_eq_true_eq, Except.ok.injEq, eq_comm (a := c)]
  exact ⟨fun ⟨_, h, hc⟩ => ⟨hc, h⟩, fun ⟨hc, h⟩ => ⟨(), h, hc⟩⟩

/-- Any other address raises AddrErr (D28). -/
theorem State.inData_beyond {s : State} {a : Nat} (h : s.platform.dataSize ≤ a) :
    s.inData a = .error (.raise .addrErr) := by
  simp [State.inData, show ¬ a < s.platform.dataSize by omega]

/-- A BSS cell: `bss_base + a`, inside data space, `a` an offset of 16 bits, in user mode inside the module's block
(R66, R67). -/
theorem State.bssCell_ok {s : State} {a c : Nat} :
    s.bssCell a = .ok c ↔ ∃ m, s.curModule = some m ∧ c = m.bssBase.toNat + a ∧ c < s.platform.dataSize ∧
      a < 0x10000 ∧ (s.ps.m = false → a < m.bssSize.toNat) := by
  unfold State.bssCell
  cases h : s.curModule with
  | none => simp
  | some m =>
    simp only [try_bind_ok, need_ok, Bool.and_eq_true, Bool.or_eq_true, decide_eq_true_eq, State.inData_ok,
      Option.some.injEq, exists_eq_left']
    cases s.ps.m <;> constructor
    · rintro ⟨-, ⟨ha, hb⟩, rfl, hc⟩
      exact ⟨rfl, hc, ha, fun _ => by simpa using hb⟩
    · rintro ⟨rfl, hc, ha, hb⟩
      exact ⟨(), ⟨ha, .inr (hb rfl)⟩, rfl, hc⟩
    · rintro ⟨-, ⟨ha, -⟩, rfl, hc⟩
      exact ⟨rfl, hc, ha, by simp⟩
    · rintro ⟨rfl, hc, ha, -⟩
      exact ⟨(), ⟨ha, .inl rfl⟩, rfl, hc⟩

/-- A stack cell: `TOS_k - i` for an index below the capacity (R68). -/
theorem State.stackCell_ok {s : State} {k : StackId} {i c : Nat} :
    s.stackCell k i = .ok c ↔ c = s.stackAddr k i ∧ i < s.platform.stackSize k ∧ i ≤ (s.platform.tos k).toNat ∧
      s.stackAddr k i < s.platform.dataSize := by
  simp only [State.stackCell, try_bind_ok, need_ok, decide_eq_true_eq, State.inData_ok, State.stackAddr]
  exact ⟨fun ⟨_, h1, _, h2, hc, h3⟩ => ⟨hc, h1, h2, h3⟩, fun ⟨hc, h1, h2, h3⟩ => ⟨(), h1, (), h2, hc, h3⟩⟩

/-- An index at or above the capacity raises StackErr (R68). -/
theorem State.stackCell_over {s : State} {k : StackId} {i : Nat} (h : s.platform.stackSize k ≤ i) :
    s.stackCell k i = .error (.raise .stackErr) := by
  simp [State.stackCell, show ¬ i < s.platform.stackSize k by omega]

/-- Data accesses raise exceptions and never fault (D28). -/
theorem State.cell_error {s : State} {sp : Space} {a : Nat} {x : Abort} (h : s.cell sp a = .error x) :
    x = .raise .addrErr ∨ x = .raise .stackErr := by
  cases sp with
  | bss =>
    simp only [State.cell, State.bssCell] at h
    split at h
    · injection h with h
      exact .inl h.symm
    · simp only [try_bind_error, need_error, State.inData] at h
      rcases h with ⟨-, h⟩ | ⟨-, -, ⟨-, h⟩ | ⟨-, -, h⟩⟩
      · exact .inl h
      · exact .inl h
      · cases h
  | stack k =>
    simp only [State.cell, State.stackCell, try_bind_error, need_error, State.inData] at h
    rcases h with ⟨-, h⟩ | ⟨-, -, ⟨-, h⟩ | ⟨-, -, ⟨-, h⟩ | ⟨-, -, h⟩⟩⟩
    · exact .inr h
    · exact .inl h
    · exact .inl h
    · cases h

/-- Every data cell an instruction reaches is in data space (R64). -/
theorem State.cell_lt {s : State} {sp : Space} {a c : Nat} (h : s.cell sp a = .ok c) : c < s.platform.dataSize := by
  cases sp with
  | bss => obtain ⟨m, -, -, hlt, -⟩ := State.bssCell_ok.mp h; exact hlt
  | stack k => obtain ⟨rfl, -, -, hlt⟩ := State.stackCell_ok.mp h; exact hlt

/-- On a platform whose stacks fit data space, an index below the capacity has a cell (R68). -/
theorem State.stackCell_fits {s : State} {k : StackId} {i : Nat} (hp : s.platform.stacksFit = true)
    (h : i < s.platform.stackSize k) : s.stackCell k i = .ok (s.stackAddr k i) := by
  rw [State.stackCell_ok]
  simp only [Platform.stacksFit, Bool.and_eq_true, decide_eq_true_eq] at hp
  refine ⟨rfl, h, ?_, ?_⟩
  · cases k <;> simp only [Platform.stackSize, Platform.tos] at * <;> omega
  · cases k <;> simp only [State.stackAddr, Platform.stackSize, Platform.tos] at * <;> omega

/-! ### Memory accesses -/

/-- A one-byte read (R66). -/
theorem State.memRead_byte_ok {s : State} {sp : Space} {a : Nat} {v : Byte} :
    s.memRead sp a .byte = .ok v ↔ ∃ c, s.cell sp a = .ok c ∧ v = s.dataByte c := by
  simp only [State.memRead, try_bind_ok, Except.ok.injEq, eq_comm (a := v)]

/-- A two-byte read (R66). -/
theorem State.memRead_word_ok {s : State} {sp : Space} {a : Nat} {v : Word} :
    s.memRead sp a .word = .ok v ↔ ∃ c0 c1, s.cell sp a = .ok c0 ∧ s.cell sp (a + 1) = .ok c1 ∧
      v = joinBytes s.ps.b (s.dataByte c0) (s.dataByte c1) := by
  simp only [State.memRead, try_bind_ok]
  constructor
  · rintro ⟨c0, h0, c1, h1, hv⟩
    exact ⟨c0, c1, h0, h1, (Except.ok.inj hv).symm⟩
  · rintro ⟨c0, c1, h0, h1, rfl⟩
    exact ⟨c0, h0, c1, h1, rfl⟩

/-- A one-byte write (R66). -/
theorem State.memWrite_byte_ok {s t : State} {sp : Space} {a : Nat} {v : Byte} :
    s.memWrite sp a .byte v = .ok t ↔ ∃ c, s.cell sp a = .ok c ∧ t = s.putData c v := by
  simp only [State.memWrite, try_bind_ok, Except.ok.injEq, eq_comm (a := t)]

/-- A two-byte write (R66). -/
theorem State.memWrite_word_ok {s t : State} {sp : Space} {a : Nat} {v : Word} :
    s.memWrite sp a .word v = .ok t ↔ ∃ c0 c1, s.cell sp a = .ok c0 ∧ s.cell sp (a + 1) = .ok c1 ∧
      t = (s.putData c0 (firstByte s.ps.b v)).putData c1 (secondByte s.ps.b v) := by
  simp only [State.memWrite, try_bind_ok]
  constructor
  · rintro ⟨c0, h0, c1, h1, hv⟩
    exact ⟨c0, c1, h0, h1, (Except.ok.inj hv).symm⟩
  · rintro ⟨c0, c1, h0, h1, rfl⟩
    exact ⟨c0, h0, c1, h1, rfl⟩

/-- A write changes data space alone. -/
theorem State.memWrite_frame {s t : State} {sp : Space} {a : Nat} {sz : Size} {v : BitVec sz.bits}
    (h : s.memWrite sp a sz v = .ok t) : t = { s with data := t.data } := by
  cases sz with
  | byte => obtain ⟨c, -, rfl⟩ := State.memWrite_byte_ok.mp h; rfl
  | word => obtain ⟨c0, c1, -, -, rfl⟩ := State.memWrite_word_ok.mp h; rfl

/-- A write keeps data space canonical and inside its size. -/
theorem State.memWrite_wf {s t : State} {sp : Space} {a : Nat} {sz : Size} {v : BitVec sz.bits}
    (h : s.memWrite sp a sz v = .ok t) (hw : Memory.wf .data s.data = true)
    (hb : Memory.below s.platform.dataSize s.data = true) :
    Memory.wf .data t.data = true ∧ Memory.below s.platform.dataSize t.data = true := by
  cases sz with
  | byte =>
    obtain ⟨c, hc, rfl⟩ := State.memWrite_byte_ok.mp h
    exact ⟨Memory.wf_write _ _ _ _ hw, Memory.below_write .data _ _ _ v hb (State.cell_lt hc)⟩
  | word =>
    obtain ⟨c0, c1, h0, h1, rfl⟩ := State.memWrite_word_ok.mp h
    exact ⟨Memory.wf_write _ _ _ _ (Memory.wf_write _ _ _ _ hw),
      Memory.below_write .data _ _ _ (secondByte s.ps.b v)
        (Memory.below_write .data _ _ _ (firstByte s.ps.b v) hb (State.cell_lt h0)) (State.cell_lt h1)⟩

/-! ### The current stack -/

@[simp] theorem State.setSp_data (s : State) (k : StackId) (v : Word) : (s.setSp k v).data = s.data := by cases k <;> rfl

@[simp] theorem State.setSp_boots (s : State) (k : StackId) (v : Word) : (s.setSp k v).boots = s.boots := by
  cases k <;> rfl

@[simp] theorem State.setSp_ps (s : State) (k : StackId) (v : Word) : (s.setSp k v).ps = s.ps := by cases k <;> rfl

@[simp] theorem State.setSp_platform (s : State) (k : StackId) (v : Word) : (s.setSp k v).platform = s.platform := by
  cases k <;> rfl

@[simp] theorem State.setSp_spOf (s : State) (k : StackId) (v : Word) : (s.setSp k v).spOf k = v := by cases k <;> rfl

/-- A stack pointer write leaves the other pointer alone. -/
theorem State.setSp_spOf_other (s : State) {k j : StackId} (v : Word) (h : j ≠ k) : (s.setSp k v).spOf j = s.spOf j := by
  cases k <;> cases j <;> first | rfl | exact absurd rfl h

/-- A stack pointer write changes the two pointers at most. -/
theorem State.setSp_eq (s : State) (k : StackId) (v : Word) :
    s.setSp k v = { s with ssp := (s.setSp k v).ssp, usp := (s.setSp k v).usp } := by cases k <;> rfl

/-- What a push does: the overflow check, the write at index SP, then SP up (R73). -/
theorem State.push_ok {s t : State} {sz : Size} {v : BitVec sz.bits} :
    s.push sz v = .ok t ↔ s.sp.toNat + sz.bytes ≤ s.platform.stackSize s.curStack ∧
      ∃ u, s.memWrite (.stack s.curStack) s.sp.toNat sz v = .ok u ∧
        t = u.setSp s.curStack (s.sp + BitVec.ofNat 16 sz.bytes) := by
  simp only [State.push, try_bind_ok, need_ok, decide_eq_true_eq, Except.ok.injEq, eq_comm (a := t)]
  constructor
  · rintro ⟨-, h, u, hu, rfl⟩
    exact ⟨h, u, hu, rfl⟩
  · rintro ⟨h, u, hu, rfl⟩
    exact ⟨(), h, u, hu, rfl⟩

/-- A push changes data space and the current stack's pointer alone. -/
theorem State.push_frame {s t : State} {sz : Size} {v : BitVec sz.bits} (h : s.push sz v = .ok t) :
    t = ({ s with data := t.data }).setSp s.curStack (s.sp + BitVec.ofNat 16 sz.bytes) := by
  obtain ⟨-, u, hu, rfl⟩ := State.push_ok.mp h
  have hu' := State.memWrite_frame hu
  rw [State.setSp_data]
  exact congrArg (fun x => x.setSp s.curStack (s.sp + BitVec.ofNat 16 sz.bytes)) hu'

/-- A push above the capacity raises StackErr (R73). -/
theorem State.push_over {s : State} {sz : Size} {v : BitVec sz.bits}
    (h : s.platform.stackSize s.curStack < s.sp.toNat + sz.bytes) : s.push sz v = .error (.raise .stackErr) := by
  have : decide (s.sp.toNat + sz.bytes ≤ s.platform.stackSize s.curStack) = false := by simpa using h
  simp [State.push, this]

/-- What a pop does: the underflow check, SP down, then the read at index SP (R74). -/
theorem State.pop_ok {s t : State} {sz : Size} {v : BitVec sz.bits} :
    s.pop sz = .ok (v, t) ↔ sz.bytes ≤ s.sp.toNat ∧
      s.memRead (.stack s.curStack) (s.sp.toNat - sz.bytes) sz = .ok v ∧
      t = s.setSp s.curStack (s.sp - BitVec.ofNat 16 sz.bytes) := by
  simp only [State.pop, try_bind_ok, need_ok, decide_eq_true_eq, Except.ok.injEq, Prod.mk.injEq]
  constructor
  · rintro ⟨-, h, u, hu, rfl, rfl⟩
    exact ⟨h, hu, rfl⟩
  · rintro ⟨h, hu, rfl⟩
    exact ⟨(), h, v, hu, rfl, rfl⟩

/-- A pop of more bytes than the stack holds raises StackErr (R74). -/
theorem State.pop_under {s : State} {sz : Size} (h : s.sp.toNat < sz.bytes) :
    s.pop sz = .error (.raise .stackErr) := by
  have : decide (sz.bytes ≤ s.sp.toNat) = false := by simpa using h
  simp [State.pop, this]

/-! ### Fetch and import lookup -/

/-- A fetched byte: below the module's code size, at `code_base + p` (R61, R62). -/
theorem State.fetch_ok {s : State} {p : Word} {b : Byte} :
    s.fetch p = .ok b ↔ ∃ m, s.curModule = some m ∧ p.toNat < m.codeSize.toNat ∧
      m.codeBase.toNat + p.toNat < s.platform.codeSpaceSize ∧ b = s.codeByte (m.codeBase.toNat + p.toNat) := by
  unfold State.fetch
  cases h : s.curModule with
  | none => simp
  | some m =>
    simp only [Option.some.injEq, exists_eq_left']
    split
    · split <;> simp_all [eq_comm]
    · simp_all

/-- A resolved import: the lowest-numbered module of the imported name, and its export (R81). -/
theorem State.resolve_ok {s : State} {i f : Nat} {m : Byte} {off : Word} :
    s.resolve i f = .ok (m, off) ↔ ∃ c nm k x, s.curModule = some c ∧ c.imports[i]? = some nm ∧
      (s.mods.findIdx? fun y => y.name == nm) = some k ∧ s.mods[k]? = some x ∧ x.exports[f]? = some off ∧
      m = BitVec.ofNat 8 k := by
  unfold State.resolve
  cases hc : s.curModule with
  | none => simp
  | some c =>
    cases hi : c.imports[i]? with
    | none => simp [hi]
    | some nm =>
      simp only [Option.bind_some, hi]
      cases hk : s.mods.findIdx? fun y => y.name == nm with
      | none => simp [hi, hk]
      | some k =>
        cases hx : s.mods[k]? with
        | none => simp [hi, hk, hx]
        | some x => cases hf : x.exports[f]? <;> simp [hi, hk, hx, hf, eq_comm, and_comm]

/-- What a call into another module does (R237). -/
theorem State.callModule_ok {s t : State} {i f : Nat} {next : Word} :
    s.callModule i f next = .ok t ↔ ∃ m off u, s.resolve i f = .ok (m, off) ∧ s.push .word next = .ok u ∧
      t = ((u.setLink (⟨.lib, some s.cm, u.curStack, u.sp⟩ :: u.link)).setCm m).setPc off := by
  simp only [State.callModule, try_bind_ok, Except.ok.injEq, eq_comm (a := t), Prod.exists]
  constructor
  · rintro ⟨m, off, hr, u, hu, rfl⟩
    exact ⟨m, off, u, hr, hu, rfl⟩
  · rintro ⟨m, off, u, hr, hu, rfl⟩
    exact ⟨m, off, hr, u, hu, rfl⟩

/-- The record RET matches is the top of LINK, on the current stack, with the current SP, and no `idle` record (R234). -/
theorem State.matchingLink_some {s : State} {r : LinkRec} :
    s.matchingLink = some r ↔ s.link = r :: s.link.tail ∧ r.stack = s.curStack ∧ r.sp = s.sp ∧ r.kind ≠ .idle := by
  unfold State.matchingLink
  cases h : s.link with
  | nil => simp
  | cons x rest =>
    simp only [List.tail_cons, List.cons.injEq, and_true]
    split
    · constructor
      · intro hr
        obtain rfl := Option.some.inj hr
        exact ⟨rfl, by assumption⟩
      · rintro ⟨rfl, -⟩
        rfl
    · simp only [reduceCtorEq, false_iff, not_and]
      rintro rfl
      intro h1 h2
      simp_all

/-! ### Ending an instruction -/

@[simp] theorem State.finish_ok (s t : State) : s.finish (.ok t) = .next t := rfl

@[simp] theorem State.finish_raise (s : State) (e : Exc) : s.finish (.error (.raise e)) = s.raise e := rfl

@[simp] theorem State.finish_fault (s : State) (f : Fault) : s.finish (.error (.fault f)) = .fault f := rfl

/-- What the end of an instruction answers. -/
theorem State.finish_next {s t : State} {r : Try State} (h : s.finish r = .next t) :
    r = .ok t ∨ ∃ e, r = .error (.raise e) ∧ s.raise e = .next t := by
  match r, h with
  | .ok u, h => exact .inl (by simpa using h)
  | .error (.raise e), h => exact .inr ⟨e, rfl, h⟩

/-- Ending an instruction never refuses. -/
theorem State.finish_not_refused {s : State} {r : Try State} {x : Refusal} (hr : ∀ e, s.raise e ≠ .refused x) :
    s.finish r ≠ .refused x := by
  match r with
  | .ok u => simp
  | .error (.raise e) => exact hr e
  | .error (.fault f) => simp

/-! ### Taking an exception -/

/-- A handler exists: a kernel, its export, room for the frame (R266). -/
theorem State.handler_some {s : State} {k : Nat} {m : Byte} {off : Word} :
    s.handler k = some (m, off) ↔ ∃ x, s.kernel = some m ∧ s.moduleAt m = some x ∧ x.exports[k]? = some off ∧
      s.ssp.toNat + 4 ≤ s.platform.sizeS := by
  unfold State.handler
  cases hk : s.kernel with
  | none => simp
  | some n =>
    constructor
    · intro h
      simp only at h
      split at h
      · cases h
      · rename_i o ho
        split at h
        · rename_i hr
          obtain ⟨x, hx, hf⟩ := Option.bind_eq_some_iff.mp ho
          simp only [Option.some.injEq, Prod.mk.injEq] at h
          obtain ⟨rfl, rfl⟩ := h
          exact ⟨x, rfl, hx, hf, hr⟩
        · cases h
    · rintro ⟨x, h, hx, hf, hr⟩
      obtain rfl := Option.some.inj h
      simp [hx, hf, hr]

/-- Taking an exception, a trap or an interrupt: a handler's first state or a reboot (R266, R269, R273). -/
theorem State.enter_next {s t : State} {kind : EventKind} {k : Nat} {ra : Word} (h : s.enter kind k ra = .next t) :
    t = s.reboot ∨ ∃ m off u, s.handler k = some (m, off) ∧ s.pushFrame kind ra = .ok u ∧
      t = ((u.linkOnEntry kind).setCm m).setPc off := by
  unfold State.enter at h
  split at h
  · exact .inl (by injection h with h; exact h.symm)
  · rename_i p hp
    split at h
    · rename_i u hu
      injection h with h
      exact .inr ⟨p.1, p.2, u, hp, hu, h.symm⟩
    · exact .inl (by injection h with h; exact h.symm)
    · cases h

/-- Taking an event never refuses. -/
theorem State.enter_not_refused (s : State) (kind : EventKind) (k : Nat) (ra : Word) (x : Refusal) :
    s.enter kind k ra ≠ .refused x := by
  unfold State.enter
  split
  · simp
  · split <;> simp

/-- The frame: three pushes in supervisor mode (R266). -/
theorem State.pushFrame_ok {s t : State} {kind : EventKind} {ra : Word} :
    s.pushFrame kind ra = .ok t ↔ ∃ a b, (s.setPs (s.ps.onEntry kind)).push .word ra = .ok a ∧
      a.push .byte s.cm = .ok b ∧ b.push .byte s.ps.toByte = .ok t := by
  simp only [State.pushFrame, try_bind_ok]
  constructor
  · rintro ⟨a, ha, b, hb, ht⟩
    exact ⟨a, b, ha, hb, ht⟩
  · rintro ⟨a, b, ha, hb, ht⟩
    exact ⟨a, ha, b, hb, ht⟩

@[simp] theorem Status.onEntry_m (p : Status) (kind : EventKind) : (p.onEntry kind).m = true := rfl

@[simp] theorem Status.onEntry_b (p : Status) (kind : EventKind) : (p.onEntry kind).b = p.b := rfl

/-! ### IO space -/

/-- A port access is inside IO space (R70). -/
theorem State.portOk_ok {s : State} {p : Nat} {u : Unit} : s.portOk p = .ok u ↔ p < s.platform.ioSize := by
  simp [State.portOk, need_ok]

/-- Reading a port changes the access record at most. -/
theorem State.ioReadByte_frame (s : State) (p : Nat) :
    (s.ioReadByte p).2 = { s with ioLog := (s.ioReadByte p).2.ioLog } := by
  unfold State.ioReadByte
  split <;> rfl

/-- Writing a port changes the access record at most. -/
theorem State.ioWriteByte_frame (s : State) (p : Nat) (v : Byte) :
    s.ioWriteByte p v = { s with ioLog := (s.ioWriteByte p v).ioLog } := by
  unfold State.ioWriteByte
  split <;> rfl

/-! ### The environment -/

/-- The environment's part of a step changes PENDING and the inputs alone. -/
theorem State.arrive_frame (s : State) : s.arrive = { s with pending := s.arrive.pending, inputs := s.arrive.inputs } := by
  unfold State.arrive
  split <;> rfl

/-- With no input left, nothing arrives. -/
theorem State.arrive_nil {s : State} (h : s.inputs = []) : s.arrive = s := by
  unfold State.arrive
  rw [h]

/-- Adding a number keeps a strictly rising list below NIRQ. -/
theorem risingBelow_insertIrq {lo nirq n : Nat} {l : List Nat} (hl : risingBelow lo nirq l = true) (h0 : lo ≤ n)
    (hn : n < nirq) : risingBelow lo nirq (insertIrq n l) = true := by
  induction l generalizing lo with
  | nil => simp [insertIrq, risingBelow, h0, hn]
  | cons m rest ih =>
    simp only [risingBelow, Bool.and_eq_true, decide_eq_true_eq] at hl
    unfold insertIrq
    split
    · simp only [risingBelow, Bool.and_eq_true, decide_eq_true_eq]
      exact ⟨⟨h0, hn⟩, ⟨by omega, hl.1.2⟩, hl.2⟩
    · split
      · simp only [risingBelow, Bool.and_eq_true, decide_eq_true_eq]
        exact hl
      · simp only [risingBelow, Bool.and_eq_true, decide_eq_true_eq]
        exact ⟨hl.1, ih hl.2 (by omega)⟩

/-- Arriving interrupts keep PENDING a set of numbers below NIRQ (R42, R270). -/
theorem risingBelow_addIrqs {nirq : Nat} (ns : List Nat) {l : List Nat} (hl : risingBelow 0 nirq l = true) :
    risingBelow 0 nirq (addIrqs nirq ns l) = true := by
  induction ns generalizing l with
  | nil => exact hl
  | cons n rest ih =>
    simp only [addIrqs, List.foldl_cons]
    split
    · rename_i hn
      exact ih (risingBelow_insertIrq hl (Nat.zero_le n) hn)
    · exact ih hl

end Sys2Proof.Machine
end

