-- ==== Sys2Proof/Laws/Operands.lean ====
section
/-! SUPPORT. Reading and writing registers and operands: what each accessor of Machine/Operands.lean gives back and
what it leaves alone; the flag computations; boot. -/

namespace Sys2Proof.Machine

/-! ### General registers -/

/-- A register write changes the registers alone. -/
theorem State.setReg_eq (s : State) (n : RegNum) (v : Byte) :
    s.setReg n v = { s with regs := (s.setReg n v).regs } := rfl

/-- What each register reads after a write. -/
theorem State.reg_setReg (s : State) (n k : RegNum) (v : Byte) :
    (s.setReg n v).reg k = if k = n then v else s.reg k := by
  simp only [State.reg, State.setReg, State.setRegs_regs, Vector.getElem_set]
  by_cases h : k = n
  · simp [h]
  · have : n.toNat ≠ k.toNat := fun e => h (BitVec.eq_of_toNat_eq e.symm)
    simp [h, this]

@[simp] theorem evenReg_ne_oddReg (n : RegNum) : evenReg n ≠ oddReg n := by revert n; decide

@[simp] theorem oddReg_ne_evenReg (n : RegNum) : oddReg n ≠ evenReg n := by revert n; decide

@[simp] theorem evenReg_evenReg (n : RegNum) : evenReg (evenReg n) = evenReg n := by revert n; decide

@[simp] theorem oddReg_evenReg (n : RegNum) : oddReg (evenReg n) = oddReg n := by revert n; decide

/-- What each register reads after a pair write (R22). -/
theorem State.reg_setPair (s : State) (n k : RegNum) (v : Word) :
    (s.setPair n v).reg k =
      if k = oddReg n then v.extractLsb' 8 8 else if k = evenReg n then v.extractLsb' 0 8 else s.reg k := by
  simp only [State.setPair, State.reg_setReg]

/-- The two bytes of a word join to it. -/
theorem high_append_low (v : Word) : v.extractLsb' 8 8 ++ v.extractLsb' 0 8 = v := by
  ext i hi
  simp only [BitVec.getElem_append, BitVec.getElem_extractLsb']
  split
  · simp [BitVec.getLsbD_eq_getElem hi]
  · rename_i h
    have : 8 + (i - 8) = i := by omega
    simp [this, BitVec.getLsbD_eq_getElem hi]

@[simp] theorem State.pair_setPair (s : State) (n : RegNum) (v : Word) : (s.setPair n v).pair n = v := by
  simp [State.pair, State.reg_setPair, high_append_low]

/-- Reading a register or pair back (R22). -/
@[simp] theorem State.gp_setGp (s : State) (n : RegNum) (sz : Size) (v : BitVec sz.bits) : (s.setGp n sz v).gp n sz = v := by
  cases sz with
  | byte => simp [State.setGp, State.gp, State.reg_setReg]
  | word => exact State.pair_setPair s n v

/-- A register or pair write leaves every register it does not cover alone (R22). -/
theorem State.reg_setGp_other (s : State) {n k : RegNum} {sz : Size} (v : BitVec sz.bits) (h : ¬ covers n sz k) :
    (s.setGp n sz v).reg k = s.reg k := by
  cases sz with
  | byte =>
    have h : ¬ k = n := h
    simp [State.setGp, State.reg_setReg, h]
  | word =>
    have h : ¬ (k = evenReg n ∨ k = oddReg n) := h
    simp only [not_or] at h
    simp [State.setGp, State.reg_setPair, h.1, h.2]

/-- A register or pair write changes the registers alone. -/
theorem State.setGp_eq (s : State) (n : RegNum) (sz : Size) (v : BitVec sz.bits) :
    s.setGp n sz v = { s with regs := (s.setGp n sz v).regs } := by cases sz <;> rfl

@[simp] theorem State.setGp_data (s : State) (n : RegNum) (sz : Size) (v : BitVec sz.bits) :
    (s.setGp n sz v).data = s.data := by cases sz <;> rfl

@[simp] theorem State.setGp_boots (s : State) (n : RegNum) (sz : Size) (v : BitVec sz.bits) :
    (s.setGp n sz v).boots = s.boots := by cases sz <;> rfl

@[simp] theorem State.setGp_pc (s : State) (n : RegNum) (sz : Size) (v : BitVec sz.bits) :
    (s.setGp n sz v).pc = s.pc := by cases sz <;> rfl

@[simp] theorem State.setGp_flags (s : State) (n : RegNum) (sz : Size) (v : BitVec sz.bits) :
    (s.setGp n sz v).flags = s.flags := by cases sz <;> rfl

@[simp] theorem State.setFlags_reg (s : State) (f : Flags) (k : RegNum) : (s.setFlags f).reg k = s.reg k := rfl

@[simp] theorem State.setPc_reg (s : State) (v : Word) (k : RegNum) : (s.setPc v).reg k = s.reg k := rfl

@[simp] theorem State.setFlags_gp (s : State) (f : Flags) (k : RegNum) (sz : Size) : (s.setFlags f).gp k sz = s.gp k sz := by
  cases sz <;> rfl

@[simp] theorem State.setPc_gp (s : State) (v : Word) (k : RegNum) (sz : Size) : (s.setPc v).gp k sz = s.gp k sz := by
  cases sz <;> rfl

/-! ### AS and PS -/

/-- A read of AS gives back what a write of its four bits put there (R27). -/
@[simp] theorem Flags.ofByte_toByte (f : Flags) : Flags.ofByte f.toByte = f := by
  obtain ⟨z, c, n, v⟩ := f
  revert z c n v
  decide

/-- A read of PS gives back what a write of its five bits put there (R35). -/
@[simp] theorem Status.ofByte_toByte (p : Status) : Status.ofByte p.toByte = p := by
  obtain ⟨m, t, i, b, sm⟩ := p
  revert m t i b sm
  decide

/-- Bits 4 to 7 of AS read as zero and are discarded (R27). -/
theorem Flags.toByte_ofByte (v : Byte) : (Flags.ofByte v).toByte = v &&& 0x0F := by revert v; decide

/-- Bits 5 to 7 of PS read as zero and are discarded (R35). -/
theorem Status.toByte_ofByte (v : Byte) : (Status.ofByte v).toByte = v &&& 0x1F := by revert v; decide

/-! ### Operands -/

/-- An operand write changes registers, stack pointers, FP, AS, PS and PC at most (R36). -/
theorem State.writeOperand_frame (s : State) (next : Word) (sz : Size) (v : BitVec sz.bits) (o : Operand) :
    s.writeOperand next sz v o = { s with
      regs := (s.writeOperand next sz v o).regs
      pc := (s.writeOperand next sz v o).pc
      ssp := (s.writeOperand next sz v o).ssp
      usp := (s.writeOperand next sz v o).usp
      fp := (s.writeOperand next sz v o).fp
      flags := (s.writeOperand next sz v o).flags
      ps := (s.writeOperand next sz v o).ps } := by
  cases o with
  | gp n => cases sz <;> rfl
  | special r =>
    cases r
    case sp =>
      simp only [State.writeOperand, State.setSpecial]
      cases h : (s.setPc next).curStack <;> rfl
    all_goals rfl

/-- An operand write leaves data space alone. -/
@[simp] theorem State.writeOperand_data (s : State) (next : Word) (sz : Size) (v : BitVec sz.bits) (o : Operand) :
    (s.writeOperand next sz v o).data = s.data := by rw [State.writeOperand_frame]

@[simp] theorem State.writeOperand_boots (s : State) (next : Word) (sz : Size) (v : BitVec sz.bits) (o : Operand) :
    (s.writeOperand next sz v o).boots = s.boots := by rw [State.writeOperand_frame]

/-- PS changes only when it is the operand (R35, R281(b)). -/
theorem State.writeOperand_ps (s : State) (next : Word) (sz : Size) (v : BitVec sz.bits) {o : Operand} (h : o.isPs = false) :
    (s.writeOperand next sz v o).ps = s.ps := by
  cases o with
  | gp n => cases sz <;> rfl
  | special r =>
    cases r
    case sp =>
      simp only [State.writeOperand, State.setSpecial]
      exact State.setSp_ps ..
    case ps => exact absurd h (by decide)
    all_goals rfl

/-- A base of LOAD and STORE is a general register in BSS or a stack pointer register with DB = 1 (R211). -/
theorem State.base_ok {s : State} {db : Size} {o : Operand} {sp : Space} {v : Word} (h : s.base db o = .ok (sp, v)) :
    o.baseWf db = true := by
  cases o with
  | gp n => rfl
  | special r => cases r <;> cases db <;> first | rfl | cases h

/-! ### Boot -/

/-- Starting a module: mode, module, offset 0, and its `vm` record (R301). -/
theorem State.startModule_eq (s : State) (m : Byte) (b : Bool) (p : VmPhase) :
    s.startModule m b p = { s with
      ps := { s.ps with m := b }
      cm := m
      pc := 0
      link := ⟨.vm, none, if b then .sup else .usr, if b then s.ssp else s.usp⟩ :: s.link
      run := .running
      vmPhase := p } := by
  cases b <;> rfl

@[simp] theorem State.bootClear_link (s : State) : s.bootClear.link = [] := rfl

@[simp] theorem State.bootClear_run (s : State) : s.bootClear.run = .halted := rfl

@[simp] theorem State.bootClear_boots (s : State) : s.bootClear.boots = s.boots + 1 := rfl

/-- Every reboot counts (log 4). -/
theorem State.reboot_boots (s : State) : s.reboot.boots = s.boots + 1 := by
  unfold State.reboot
  simp only
  split
  · rw [State.startModule_eq]; rfl
  · split
    · rw [State.startModule_eq]; rfl
    · rfl

/-- A reboot ends as boot left it, or in a started module (R300). -/
theorem State.reboot_cases (s : State) :
    s.reboot = s.bootClear ∨ ∃ m p, s.reboot = s.bootClear.startModule m true p := by
  unfold State.reboot
  simp only
  split
  · exact .inr ⟨_, _, rfl⟩
  · split
    · exact .inr ⟨_, _, rfl⟩
    · exact .inl rfl

/-- Returning to the VM: the application in user mode, the VM's sleep state, or halt (R300, R302). -/
theorem State.returnToVm_cases (s : State) :
    s.returnToVm = s.enterVmSleep ∨ s.returnToVm = s.setRun .halted ∨
      ∃ a, s.returnToVm = s.startModule a false .application := by
  unfold State.returnToVm State.afterKernel
  split
  · split
    · exact .inr (.inr ⟨_, rfl⟩)
    · exact .inl rfl
  · split
    · exact .inl rfl
    · exact .inr (.inl rfl)

end Sys2Proof.Machine
end

