-- ==== Sys2Proof/Machine/Assembler.lean ====
section
/-! DEFINITION. What the spec gives of the assembler (30_encoding.md R125 to R131): names of registers, symbols, kinds
of source line, the bytes of the data directives, and the aliases. No step reads source text. Not here, because the
spec does not give it: the operand syntax of the other instructions (N20) and how a label is defined (R130). -/

namespace Sys2Proof.Machine

/-! ### Aliases (R131, 45_control.md R238) -/

/-- `JMP Wn`, "a simple alias to MOV PC, Wn": bytes 08 and 0x30 + n (log 23). -/
def asmJmp (n : RegNum) : Instr := .mov .word (.special .pc) (.gp n)

/-- The absolute jump to a constant, `MOVC PC, C`. -/
def asmJmpConst (target : Word) : Instr := .movc (.special .pc) (.long target)

/-- BEQ, BNE and the branches named after the other conditions; Cc = 000 is the plain branch. -/
def asmBranch (cc : Cond) (disp : Imm) : Instr := .bcc false cc disp

/-- PUSH, in stack mode: STORE through SP without an index. -/
def asmPush (sz : Size) (d : Operand) : Instr := .store sz d .word (.special .sp) .none

/-- POP, in stack mode: LOAD through SP without an index. -/
def asmPop (sz : Size) (d : Operand) : Instr := .load sz d .word (.special .sp) .none

/-! ### Register names (R126) -/

/-- The names and what each selects. SSP is special register 1, which names it in supervisor mode (10_state.md R33). -/
def registerNames : List (String × Size × Operand) :=
  [("R0", .byte, .gp 0), ("R1", .byte, .gp 1), ("R2", .byte, .gp 2), ("R3", .byte, .gp 3),
   ("R4", .byte, .gp 4), ("R5", .byte, .gp 5), ("R6", .byte, .gp 6), ("R7", .byte, .gp 7),
   ("W0", .word, .gp 0), ("W2", .word, .gp 2), ("W4", .word, .gp 4), ("W6", .word, .gp 6),
   ("PC", .word, .special .pc), ("SP", .word, .special .sp), ("SSP", .word, .special .sp),
   ("USP", .word, .special .usp), ("FP", .word, .special .fp), ("AS", .byte, .special .as),
   ("PS", .byte, .special .ps), ("CM", .byte, .special .cm)]

/-- The register a name stands for; W1, W3, W5, W7 "do not exist". -/
def registerNamed (name : String) : Option (Size × Operand) := registerNames.lookup name

/-- `MOVE RD, RS` copies RS to RD (R125): destination first, both of one size. -/
def asmMove (dst src : String) : Option Instr := do
  let (sd, d) ← registerNamed dst
  let (ss, r) ← registerNamed src
  if sd = ss then some (.mov sd d r) else none

/-- `load RA, RB` and `load RA, ind(RB)` (R127): the base bare, or with the index in front of it. -/
def asmLoad (dst base : String) (idx : Index) : Option Instr := do
  let (sd, d) ← registerNamed dst
  let (sb, b) ← registerNamed base
  some (.load sd d sb b idx)

/-- `movc RA, label` (R128): "a symbol is an address", the label's value goes to the register. DESIGN CHOICE (log 26):
an 8-bit register gets the low byte of a value that does not fit it; the spec does not say what is assembled then. -/
def asmMovc (dst : String) (value : Word) : Option Instr := do
  let (sd, d) ← registerNamed dst
  some (.movc d (match sd with
    | .byte => .short (value.extractLsb' 0 8)
    | .word => .long value))

/-! ### Symbols and lines (R128, R130) -/

/-- `[A-Za-z]`. -/
def isLetter (c : Char) : Bool := ('A' ≤ c && c ≤ 'Z') || ('a' ≤ c && c ≤ 'z')

/-- `[A-Za-z][A-Za-z0-9]*`, at most 64 bytes. -/
def validSymbol : List Char → Bool
  | [] => false
  | c :: rest => isLetter c && rest.all (fun d => isLetter d || ('0' ≤ d && d ≤ '9')) && decide (rest.length < 64)

/-- "Source lines can be empty lines, comment lines, a directive, an instruction" (R130). -/
inductive LineKind
  | empty
  | comment
  | directive
  | instruction
  deriving DecidableEq, Repr

/-- Which kind a line is, from its first characters after blanks. -/
def lineKind (line : List Char) : LineKind :=
  match line.dropWhile (fun c => c == ' ' || c == '\t') with
  | [] => .empty
  | '#' :: _ | '!' :: _ | '@' :: _ | '/' :: '/' :: _ => .comment
  | '.' :: _ => .directive
  | _ => .instruction

/-! ### Directives (R129) -/

/-- The directives. `.global` is `.xdef`, `.byte` is `.db`, `.word` is `.dw`, `.long` is `.dl`, `.space` is `.ds`. -/
inductive Directive
  | module (name : String)
  | equ (sym : String) (val : Nat)
  | includeFile (path : String)
  | xdef (sym : String)
  | text (name : Option String)
  | rodata (name : Option String)
  | data (name : Option String)
  | bss (name : Option String)
  | db (vals : List Byte)
  | dw (vals : List Word)
  | dl (vals : List (BitVec 32))
  | ds (count : Nat)
  | asciiz (chars : List Byte)
  deriving DecidableEq, Repr

/-- Bytes of a value, least significant first. -/
def bytesUp (v : Nat) : Nat → List Byte
  | 0 => []
  | n + 1 => BitVec.ofNat 8 v :: bytesUp (v / 256) n

/-- A word or long word "verbatim"; the byte order is not stated: a free value (log 21). -/
def asmBytes (v n : Nat) : List Byte := if Config.asmLowFirst then bytesUp v n else (bytesUp v n).reverse

/-- The bytes a directive stores. -/
def Directive.bytes : Directive → List Byte
  | .db vals => vals
  | .dw vals => vals.flatMap fun v => asmBytes v.toNat 2
  | .dl vals => vals.flatMap fun v => asmBytes v.toNat 4
  | .ds count => List.replicate count 0
  | .asciiz chars => chars ++ [0]
  | .module _ | .equ _ _ | .includeFile _ | .xdef _ => []
  | .text _ | .rodata _ | .data _ | .bss _ => []

end Sys2Proof.Machine
end

