-- ==== Sys2Proof/Machine/Executable.lean ====
section
/-! DEFINITION. The file a module is loaded from (20_memory.md R84), its installation in code space and in the module
table (R80), and the header of the relocatable object format (30_encoding.md R132). No step reads a file: the VM loader
is system dependent (00_scope.md R4(e)), and the machine takes its module table as given. -/

namespace Sys2Proof.Machine

/-- The content of an executable file (R84). -/
structure Executable where
  /-- 8 bytes. -/
  name : List Byte
  bssSize : Word
  imports : List (List Byte)
  exports : List Word
  code : List Byte
  deriving DecidableEq, Repr

/-- A 2-byte field of the file, least significant byte first (R84). -/
def fileWord (v : Word) : List Byte := [v.extractLsb' 0 8, v.extractLsb' 8 8]

/-- Read a 2-byte field. -/
def takeWord : List Byte → Option (Word × List Byte)
  | lo :: hi :: rest => some (hi ++ lo, rest)
  | _ => none

/-- Read `n` bytes. -/
def takeBytes : Nat → List Byte → Option (List Byte × List Byte)
  | 0, bs => some ([], bs)
  | _ + 1, [] => none
  | n + 1, b :: bs => (takeBytes n bs).map fun p => (b :: p.1, p.2)

/-- Read `n` 8-byte names. -/
def takeNames : Nat → List Byte → Option (List (List Byte) × List Byte)
  | 0, bs => some ([], bs)
  | n + 1, bs => do
    let (name, bs) ← takeBytes 8 bs
    let (names, bs) ← takeNames n bs
    some (name :: names, bs)

/-- Read `n` 2-byte fields. -/
def takeWords : Nat → List Byte → Option (List Word × List Byte)
  | 0, bs => some ([], bs)
  | n + 1, bs => do
    let (w, bs) ← takeWord bs
    let (ws, bs) ← takeWords n bs
    some (w :: ws, bs)

/-- The file of an executable, in the order and with the sizes of R84 (its reading, D34): name, BSS size, code size,
numbers of imports and exports, the tables, the reserved word, the code. -/
def Executable.toFile (x : Executable) : List Byte :=
  x.name ++ fileWord x.bssSize ++ fileWord (BitVec.ofNat 16 x.code.length) ++
  fileWord (BitVec.ofNat 16 x.imports.length) ++ fileWord (BitVec.ofNat 16 x.exports.length) ++
  x.imports.flatten ++ x.exports.flatMap fileWord ++ [0, 0] ++ x.code

/-- Read a file. One whose reserved word is not zero, or whose length does not fit its sizes, is refused (R84;
93_implementation_defined.md U12). -/
def Executable.ofFile (bs : List Byte) : Option Executable := do
  let (name, bs) ← takeBytes 8 bs
  let (bssSize, bs) ← takeWord bs
  let (codeSize, bs) ← takeWord bs
  let (importCount, bs) ← takeWord bs
  let (exportCount, bs) ← takeWord bs
  let (imports, bs) ← takeNames importCount.toNat bs
  let (exports, bs) ← takeWords exportCount.toNat bs
  let (reserved, code) ← takeWord bs
  if reserved = 0 ∧ code.length = codeSize.toNat then some ⟨name, bssSize, imports, exports, code⟩ else none

/-- What installing an executable makes: a module table record after the last one, and its code bytes in code space
from `codeBase` on; where, with which flags, and where its BSS block lies, the loader decides (00_scope.md R4(e), R80,
R82). None when the table is full, the code is longer than 65535 bytes or does not fit code space. -/
def State.install (s : State) (x : Executable) (flags : Byte) (codeBase bssBase : Addr) : Option State :=
  if s.mods.length < 256 ∧ x.code.length ≤ 65535 ∧ codeBase.toNat + x.code.length ≤ s.platform.codeSpaceSize then
    some { s with
      mods := s.mods ++
        [⟨x.name, flags, codeBase, BitVec.ofNat 16 x.code.length, bssBase, x.bssSize, x.imports, x.exports⟩]
      code := placeCode s.code codeBase.toNat 0 x.code }
  else none

/-- The object header of R132: "REL8", then two counts, given as bytes because their byte order is not stated. -/
def objectHeader : List Byte → Option ((Byte × Byte) × (Byte × Byte) × List Byte)
  | 0x52 :: 0x45 :: 0x4C :: 0x38 :: e0 :: e1 :: r0 :: r1 :: rest => some ((e0, e1), (r0, r1), rest)
  | _ => none

end Sys2Proof.Machine
end

