-- ==== Sys2Proof/Tests/Slice0.lean ====
section
/-! SUPPORT. Tests. Expected values are the worked examples of spec/ (the rule is named beside each), words written out
from the encoding tables of 30_encoding.md. The last part shows, for each obligation with hypotheses, a concrete state
that meets them. -/

namespace Sys2Proof.Tests

open Sys2Proof.Machine

/-! ### Well-formed terms: one ill-formed term for each check -/

theorem test_wf_special_seven : (Instr.mov .byte (.gp 0) (.special .reserved)).wellFormed = false := by decide
theorem test_wf_size_of_source : (Instr.mov .byte (.gp 0) (.special .sp)).wellFormed = false := by decide
theorem test_wf_size_of_destination : (Instr.movc (.special .as) (.long 0)).wellFormed = false := by decide
theorem test_wf_cm_destination : (Instr.mov .byte (.special .cm) (.gp 0)).wellFormed = false := by decide
theorem test_wf_cm_bit_destination : (Instr.setbc .byte (.special .cm) 0).wellFormed = false := by decide
theorem test_wf_cm_source : (Instr.mov .byte (.gp 0) (.special .cm)).wellFormed = true := by decide
theorem test_wf_mul_wide : (Instr.mul .word true .byte 0 2).wellFormed = false := by decide
theorem test_wf_div_wide : (Instr.div .word true .word 0 2).wellFormed = false := by decide
theorem test_wf_condition : (Instr.bcc false .reserved (.short 4)).wellFormed = false := by decide
theorem test_wf_base_pc : (Instr.load .byte (.gp 0) .word (.special .pc) .none).wellFormed = false := by decide
theorem test_wf_base_size : (Instr.load .byte (.gp 0) .byte (.special .sp) .none).wellFormed = false := by decide
theorem test_wf_store_cm : (Instr.store .byte (.special .cm) .byte (.gp 2) .none).wellFormed = true := by decide
theorem test_wf_store_base_as : (Instr.store .byte (.gp 0) .byte (.special .as) .none).wellFormed = false := by decide
theorem test_wf_port_special : (Instr.ioctlIn .byte (.gp 0) .word (.special .sp) .none).wellFormed = false := by decide
theorem test_wf_testb_size : (Instr.testb .byte (.special .fp) 0).wellFormed = false := by decide
theorem test_wf_testbc_seven : (Instr.testbc (.special .reserved) 0).wellFormed = false := by decide
theorem test_wf_ps_user : (Instr.mov .byte (.special .ps) (.gp 0)).allowed false = false := by decide

/-! ### Decoding: a word of every constructor, from the bit positions of R102 to R111 -/

/-- The bytes decode to the instruction, with nothing left over. -/
def decodesTo (bs : List Byte) (i : Instr) : Bool :=
  match decode bs with
  | .ok (j, []) => decide (j = i)
  | _ => false

/-- The bytes are refused for this reason. -/
def refusedAs (bs : List Byte) (r : Reject) : Bool :=
  match decode bs with
  | .error e => decide (e = r)
  | _ => false

theorem test_decode_one_byte : decodesTo [0b00000000] .nop ∧ decodesTo [0b00000001] .ret ∧ decodesTo [0b00000010] .reti := by
  decide

/-- `00001 RD | sub S MD MS RS` (R103). -/
theorem test_decode_logic :
    decodesTo [0b00001101, 0b00010000] (.mov .byte (.special .ps) (.gp 0)) ∧
    decodesTo [0b00001000, 0b01000000] (.xor .byte (.gp 0) (.gp 0)) ∧
    decodesTo [0b00001100, 0b10010000] (.and .byte (.special .as) (.gp 0)) ∧
    decodesTo [0b00001000, 0b11101001] (.or .word (.gp 0) (.special .sp)) := by decide

/-- `00010 RD | Y o S 00 RS` and `00011 RD | 0 o S 00 RS` (R103). -/
theorem test_decode_arith :
    decodesTo [0b00010000, 0b00100010] (.add .word 0 2) ∧ decodesTo [0b00010000, 0b10000001] (.addc .byte 0 1) ∧
    decodesTo [0b00010000, 0b01000001] (.sub .byte 0 1) ∧ decodesTo [0b00010000, 0b11000001] (.subb .byte 0 1) ∧
    decodesTo [0b00011000, 0b00100010] (.test .word 0 2) ∧ decodesTo [0b00011001, 0b01000000] (.swap .byte 1 0) := by
  decide

/-- `00011 RD | 1 o SD W SS RS` (R104). -/
theorem test_decode_multiply :
    decodesTo [0b00011010, 0b10010001] (.mul .byte true .byte 2 1) ∧
    decodesTo [0b00011000, 0b11101010] (.div .word false .word 0 2) := by decide

/-- `00100 RD | Y o SD LR SS RS` and `00101 RD | Y o SD LR Bits` (R105). -/
theorem test_decode_shift :
    decodesTo [0b00100000, 0b10010001] (.shift true .byte .right .byte 0 1) ∧
    decodesTo [0b00100000, 0b01101010] (.rot false .word .left .word 0 2) ∧
    decodesTo [0b00101000, 0b00111111] (.shiftc false .word .right 0 15) ∧
    decodesTo [0b00101000, 0b11001001] (.rotc true .byte .left 0 9) := by decide

/-- Formats FB, FBC, FTB, FTBC (R106). -/
theorem test_decode_bit :
    decodesTo [0b00110000, 0b00100010] (.clrb .word (.gp 0) .byte 2) ∧
    decodesTo [0b00110101, 0b01010000] (.clrbc .byte (.special .ps) 0) ∧
    decodesTo [0b00110000, 0b10001010] (.setb .byte (.gp 0) .word 2) ∧
    decodesTo [0b00110001, 0b11110000] (.setbc .word (.special .sp) 0) ∧
    decodesTo [0b00111000, 0b00001010] (.testb .word (.gp 0) 2) ∧
    decodesTo [0b00111001, 0b01011001] (.testbc (.special .sp) 9) := by decide

/-- Format FX (R107). -/
theorem test_decode_fx :
    decodesTo [0b00111000, 0b10000011] (.sext 3) ∧ decodesTo [0b00111000, 0b10101000] (.cmpl .word 0) ∧
    decodesTo [0b00111000, 0b10110010] (.jsr .word 2) ∧ decodesTo [0b00111000, 0b10011000] .reset ∧
    decodesTo [0b00111000, 0b10011001] .sleep ∧ decodesTo [0b00111000, 0b11010011] (.trap 3) := by decide

/-- Formats FQ, FLX, FLC (R108, R109). -/
theorem test_decode_quick :
    decodesTo [0b01000000, 0b11111010] (.addq .word 2 15) ∧ decodesTo [0b01000001, 0b00110000] (.subq .byte 0 3) ∧
    decodesTo [0b01000010, 0b11111000] (.mulq .word 0 15) ∧ decodesTo [0b01000011, 0x01, 0x05] (.libcallx 1 5) ∧
    decodesTo [0b01000110, 0b00010101] (.libcall 1 0x25) := by decide

/-- Format FMEM with no, an 8-bit and a 16-bit index (R110, R112). -/
theorem test_decode_memory :
    decodesTo [0b01101000, 0b00111001] (.load .word (.special .pc) .word (.special .sp) .none) ∧
    decodesTo [0b01110000, 0b10000001, 0x23, 0x01] (.load .byte (.gp 0) .byte (.gp 1) (.long 0x0123)) ∧
    decodesTo [0b01101011, 0b01111001] (.store .word (.special .fp) .word (.special .sp) .none) ∧
    decodesTo [0b10000000, 0b00000010] (.ioctlIn .byte (.gp 0) .byte (.gp 2) .none) ∧
    decodesTo [0b10011000, 0b01100010, 0x01] (.ioctlOut .word (.gp 0) .word (.gp 2) (.short 1)) := by decide

/-- Formats FI and FBR (R111). -/
theorem test_decode_constant :
    decodesTo [0b10111011, 0x02, 0x01] (.movc (.special .fp) (.long 0x0102)) ∧
    decodesTo [0b11010100, 0x01] (.testc (.special .as) (.short 1)) ∧
    decodesTo [0b11111001, 0xFD, 0xFF] (.bcc true .eq (.long 0xFFFD)) := by decide

/-- R116 and R117. -/
theorem test_decode_refused :
    refusedAs [0x03] .unassignedFirstByte ∧ refusedAs [0x5F] .unassignedFirstByte ∧
    refusedAs [0x38, 0x9A] .unassignedSecondByte ∧ refusedAs [0x39, 0x80] .unassignedSecondByte ∧
    refusedAs [0x10, 0x09] .mustBeZero ∧ refusedAs [0x38, 0x21] .mustBeZero ∧
    refusedAs [0x60, 0x82] .lengthWithoutIndex ∧ refusedAs [0x43, 0x01] .truncated := by decide

/-! ### A small machine -/

/-- Module 0 of the tests: the kernel, exports 0 to 47 at offsets 0x40 to 0x6F. -/
def kernelModule : Module :=
  ⟨[0x4B, 0, 0, 0, 0, 0, 0, 0], 2, 0x1000, 0x0100, 0x0100, 16, [], (List.range 48).map fun k => BitVec.ofNat 16 (0x40 + k)⟩

/-- Module 1: the program, importing LIBA; BSS base 0x0200, BSS size 64 (44_load_store_io.md). -/
def program : Module := ⟨[0x50, 0, 0, 0, 0, 0, 0, 0], 1, 0x2000, 0x0100, 0x0200, 64, [[0x4C, 0x49, 0x42, 0x41, 0, 0, 0, 0]], []⟩

/-- Module 2: LIBA, exports 0x0010 and 0x0020 (45_control.md R237). -/
def library : Module := ⟨[0x4C, 0x49, 0x42, 0x41, 0, 0, 0, 0], 0, 0x3000, 0x0100, 0x0300, 32, [], [0x0010, 0x0020]⟩

/-- The program runs in supervisor mode, little-endian, stack mode off, at PC 0, with its `vm` record. -/
def machine : State :=
  { State.reset with
    mods := [kernelModule, program, library]
    cm := 1
    run := .running
    link := [⟨.vm, none, .sup, 0⟩] }

/-- The machine with general registers. -/
def withRegs (r0 r1 r2 r3 : Byte) : State := { machine with regs := #v[r0, r1, r2, r3, 0, 0, 0, 0] }

/-- The machine in user mode. -/
def user (s : State) : State := { s with ps := { s.ps with m := false } }

/-- The machine in stack mode. -/
def stacked (s : State) : State := { s with ps := { s.ps with sm := true } }

/-- A step's next state has a property. -/
def next (o : Result) (p : State → Bool) : Bool :=
  match o with
  | .next t => p t
  | _ => false

/-- R0 to R3 and the flags as a byte. -/
def low (s : State) : List Byte := [s.reg 0, s.reg 1, s.reg 2, s.reg 3, s.flags.toByte]

/-- An event entered handler `k` of the kernel. -/
def inHandler (k : Nat) (s : State) : Bool := decide (s.cm = 0) && decide (s.pc = BitVec.ofNat 16 (0x40 + k)) && s.ps.m

/-! ### Move and logic (40_move_logic.md) -/

theorem test_mov_pair : next (exec (.mov .word (.gp 3) (.gp 1)) (withRegs 0x34 0x12 0 0)) fun t =>
    low t = [0x34, 0x12, 0x34, 0x12, 0] ∧ t.pc = 2 := by decide
theorem test_mov_ps_masked : next (exec (.mov .byte (.special .ps) (.gp 0)) (withRegs 0xFF 0 0 0)) fun t =>
    t.ps.toByte = 0x1F := by decide
theorem test_mov_to_pc : next (exec (.mov .word (.special .pc) (.gp 2)) (withRegs 0 0 0x20 0)) fun t => t.pc = 0x0020 := by
  decide
theorem test_xor_keeps_carry : next (exec (.xor .byte (.gp 0) (.gp 0))
    { withRegs 0x77 0 0 0 with flags := .ofByte 0x0A }) fun t => low t = [0, 0, 0, 0, 0x0B] := by decide
theorem test_and_to_as : next (exec (.and .byte (.special .as) (.gp 0))
    { withRegs 0x05 0 0 0 with flags := .ofByte 0x0F }) fun t => t.flags.toByte = 0x05 := by decide
theorem test_or_pair : next (exec (.or .word (.gp 0) (.gp 2)) (withRegs 0xF0 0 0x01 0x80)) fun t =>
    low t = [0xF1, 0x80, 0x01, 0x80, 0x04] := by decide
theorem test_movc_fp : next (exec (.movc (.special .fp) (.long 0x0102)) machine) fun t => t.fp = 0x0102 ∧ t.pc = 3 := by
  decide
theorem test_swap_nibbles : next (exec (.swap .byte 1 0) (withRegs 0xA5 0 0 0)) fun t => low t = [0xA5, 0x5A, 0, 0, 0] := by
  decide
theorem test_swap_pairs : next (exec (.swap .word 0 2) (withRegs 0x34 0x12 0xCD 0xAB)) fun t =>
    low t = [0xCD, 0xAB, 0x34, 0x12, 0] := by decide
theorem test_sext_odd : next (exec (.sext 3) (withRegs 0 0 0xFE 0x11)) fun t => low t = [0, 0, 0xFE, 0xFF, 0] := by decide

/-! ### Arithmetic (41_arithmetic.md) -/

theorem test_add_overflow : next (exec (.add .byte 0 1) (withRegs 0x80 0x80 0 0)) fun t => low t = [0, 0x80, 0, 0, 0x0B] := by
  decide
theorem test_add_pair_carries : next (exec (.add .word 0 2) (withRegs 0xFF 0 0x01 0)) fun t => low t = [0, 1, 1, 0, 0] := by
  decide
theorem test_addc_with_carry : next (exec (.addc .byte 0 1) { withRegs 0xFF 0 0 0 with flags := .ofByte 0x02 }) fun t =>
    low t = [0, 0, 0, 0, 0x03] := by decide
theorem test_sub_borrow : next (exec (.sub .byte 0 1) (withRegs 0x05 0x01 0 0)) fun t =>
    low t = [0xFC, 0x01, 0, 0, 0x06] := by decide
theorem test_subb_borrow : next (exec (.subb .byte 0 1) { machine with flags := .ofByte 0x02 }) fun t =>
    low t = [0xFF, 0, 0, 0, 0x06] := by decide
theorem test_test_pair : next (exec (.test .word 0 2) (withRegs 0 0x80 0x01 0)) fun t => low t = [0, 0x80, 1, 0, 0x0E] := by
  decide
theorem test_testc_as : next (exec (.testc (.special .as) (.short 1)) { machine with flags := .ofByte 0x01 }) fun t =>
    t.flags.toByte = 0x01 ∧ t.pc = 2 := by decide
theorem test_cmpl_most_negative : next (exec (.cmpl .byte 0) (withRegs 0x80 0 0 0)) fun t => low t = [0x80, 0, 0, 0, 4] := by
  decide
theorem test_addq_pair : next (exec (.addq .word 2 15) (withRegs 0 0 0xF8 0)) fun t => low t = [0, 0, 0x07, 0x01, 0] := by
  decide
theorem test_subq_source_is_constant : next (exec (.subq .byte 0 3) (withRegs 0x05 0 0 0)) fun t =>
    low t = [0xFE, 0, 0, 0, 0x06] := by decide
theorem test_subq_other_order : next (exec (.subq .byte 0 3)
    { withRegs 0x05 0 0 0 with platform := { Platform.reset with subOrder := .dstMinusSrc } }) fun t =>
    low t = [0x02, 0, 0, 0, 0] := by decide
theorem test_mul_wide : next (exec (.mul .byte true .byte 2 1) (withRegs 0 0xFF 0xFF 0)) fun t =>
    low t = [0, 0xFF, 0x01, 0xFE, 4] := by decide
theorem test_mul_pair_by_byte : next (exec (.mul .word false .byte 0 2) (withRegs 0x02 0x01 0x03 0)) fun t =>
    low t = [0x06, 0x03, 0x03, 0, 0] := by decide
theorem test_div_wide : next (exec (.div .byte true .byte 0 1) (withRegs 17 5 0 0)) fun t => low t = [3, 2, 0, 0, 0] := by decide
theorem test_div_by_zero : next (exec (.div .byte false .byte 0 1) (withRegs 17 0 0 0)) fun t =>
    inHandler 0 t ∧ low t = [17, 0, 0, 0, 0] := by decide
theorem test_mulq_pair : next (exec (.mulq .word 0 15) (withRegs 0x11 0x11 0 0)) fun t => low t = [0xFF, 0xFF, 0, 0, 4] := by
  decide

/-! ### Shift and rotate (42_shift_rotate.md) -/

theorem test_shift_by_itself : next (exec (.shift false .byte .left .byte 0 0) (withRegs 2 0 0 0)) fun t =>
    low t = [8, 0, 0, 0, 0] := by decide
theorem test_shift_long_count : next (exec (.shift true .byte .left .byte 0 1)
    { withRegs 0xFF 0xFF 0 0 with flags := .ofByte 2 }) fun t => low t = [0, 0xFF, 0, 0, 1] := by decide
theorem test_rot_through_carry : next (exec (.rot true .byte .right .byte 0 1) (withRegs 0x81 2 0 0)) fun t =>
    low t = [0xA0, 2, 0, 0, 4] := by decide
theorem test_shiftc_by_width : next (exec (.shiftc true .byte .left 0 8) (withRegs 1 0 0 0)) fun t =>
    low t = [0, 0, 0, 0, 3] := by decide
theorem test_shiftc_right_pair : next (exec (.shiftc false .word .right 0 15) (withRegs 0 0x80 0 0)) fun t =>
    low t = [1, 0, 0, 0, 0] := by decide
theorem test_rotc_nine_places : next (exec (.rotc true .byte .left 0 9) (withRegs 0xA5 0 0 0)) fun t =>
    low t = [0xA5, 0, 0, 0, 4] := by decide
theorem test_rotc_twelve_places : next (exec (.rotc false .byte .left 0 12) (withRegs 0xA5 0 0 0)) fun t =>
    low t = [0x5A, 0, 0, 0, 0] := by decide

/-! ### Bits (43_bit.md) -/

theorem test_clrb_pair : next (exec (.clrb .word (.gp 0) .byte 2) (withRegs 0xFF 0xFF 0x0F 0)) fun t =>
    low t = [0xFF, 0x7F, 0x0F, 0, 0] := by decide
theorem test_clrbc_ps : next (exec (.clrbc .byte (.special .ps) 0) machine) fun t => t.ps.toByte = 0 := by decide
theorem test_setb_beyond_width : next (exec (.setb .byte (.gp 0) .word 2) (withRegs 0 0 0x02 0x01)) fun t =>
    low t = [0, 0, 2, 1, 0] ∧ t.pc = 2 := by decide
theorem test_setbc_sp : next (exec (.setbc .word (.special .sp) 0) machine) fun t => t.ssp = 1 := by decide
theorem test_testb_high_bit : next (exec (.testb .word (.gp 0) 2) (withRegs 0 0x80 15 0)) fun t => !t.flags.z := by decide
theorem test_testbc_beyond_width : next (exec (.testbc (.gp 0) 8) (withRegs 0xFF 0 0 0)) fun t => t.flags.z := by decide
theorem test_testbc_sp_is_wide : next (exec (.testbc (.special .sp) 9) { machine with ssp := 0x0200 }) fun t =>
    !t.flags.z := by decide

/-! ### Memory and IO (44_load_store_io.md) -/

theorem test_load_word_big_endian : next (exec (.load .word (.gp 0) .byte (.gp 2) .none)
    { withRegs 0 0 0x10 0 with data := [(0x210, 0x12), (0x211, 0x34)], ps := .ofByte 0x09 }) fun t =>
    low t = [0x34, 0x12, 0x10, 0, 0] := by decide
theorem test_load_negative_index : next (exec (.load .byte (.gp 0) .byte (.gp 1) (.short 0xFF))
    { withRegs 0 0x10 0 0 with data := [(0x20F, 0x5A)] }) fun t => t.reg 0 = 0x5A ∧ t.pc = 3 := by decide
theorem test_store_word : next (exec (.store .word (.gp 0) .byte (.gp 2) .none) (withRegs 0x34 0x12 0x10 0)) fun t =>
    t.data = [(0x210, 0x34), (0x211, 0x12)] := by decide
theorem test_store_second_byte_outside : next (exec (.store .word (.gp 0) .byte (.gp 2) .none)
    (user (withRegs 0x34 0x12 0x3F 0))) fun t => inHandler 2 t ∧ t.data.length = 4 := by decide
/-- "real data address at or beyond DATA_SIZE": AddrErr in user mode too (93_implementation_defined.md U28). -/
theorem test_store_beyond_data_space : next (exec (.store .byte (.gp 0) .byte (.gp 2) .none)
    (user { withRegs 0x34 0 0x3F 0 with mods := [kernelModule, { program with bssBase := 0x0FF0 }] })) fun t =>
    inHandler 2 t := by decide
/-- "an access with a = 0xFFFF and n = 2 needs a cell at 0x10000, which no space has" (20_memory.md R66). -/
theorem test_store_across_the_top : next (exec (.store .word (.gp 0) .word (.gp 2) .none)
    { withRegs 0 0 0xFF 0xFF with platform := { Platform.reset with dataSize := 0x20000, tosU := 0x1FFFF } }) fun t =>
    inHandler 2 t := by decide
theorem test_push_word : next (exec (.store .word (.gp 0) .word (.special .sp) .none)
    { stacked (withRegs 0x34 0x12 0 0) with ssp := 2 }) fun t => t.data = [(0x7D, 0x12), (0x7E, 0x34)] ∧ t.ssp = 4 := by decide
theorem test_pop_underflow : next (exec (.load .byte (.gp 1) .word (.special .sp) .none) (stacked machine)) fun t =>
    inHandler 3 t ∧ t.ssp = 4 := by decide
theorem test_ioctl_in_descriptor : next (exec (.ioctlIn .word (.gp 0) .byte (.gp 2) .none)
    { machine with platform := { Platform.reset with descriptors := [.serialPort 0x0040] } }) fun t =>
    low t = [1, 2, 0, 0, 0] ∧ t.ioLog = [] := by decide
/-- "A list with one serial port at port base 0x0040 is the six bytes `01 02 40 00 00 00`"; nothing follows tag 0x00
(R286). -/
theorem test_descriptor_list :
    descriptorList [.serialPort 0x0040] = [0x01, 0x02, 0x40, 0x00, 0x00, 0x00] ∧
    descriptorList [.serialPort 0x0040, .other 0 [7], .other 9 [8]] = [0x01, 0x02, 0x40, 0x00, 0x00, 0x00] := by decide
theorem test_ioctl_in_user : next (exec (.ioctlIn .byte (.gp 0) .byte (.gp 2) .none) (user (withRegs 0 0 0x30 0))) fun t =>
    inHandler 1 t ∧ t.ioLog = [] := by decide
theorem test_ioctl_out_word : next (exec (.ioctlOut .word (.gp 0) .word (.gp 2) (.short 1))
    { withRegs 0x34 0x12 0x00 0x10 with platform := { Platform.reset with ioSize := 0x10000 } }) fun t =>
    t.ioLog = [.written 0x1001 0x34, .written 0x1002 0x12] := by decide

/-! ### Control (45_control.md) -/

theorem test_nop : next (exec .nop machine) fun t => t.pc = 1 := by decide
theorem test_bcc_back : next (exec (.bcc false .always (.short 0xFE)) machine) fun t => t.pc = 0 := by decide
theorem test_bcc_link : next (exec (.bcc true .always (.short 3)) machine) fun t =>
    t.data = [(0x7F, 0), (0x80, 2)] ∧ t.ssp = 2 ∧ t.pc = 5 := by decide
theorem test_jsr_byte : next (exec (.jsr .byte 3) (withRegs 0 0 0 0x20)) fun t =>
    t.data = [(0x7F, 0), (0x80, 2)] ∧ t.ssp = 2 ∧ t.pc = 0x20 := by decide
theorem test_ret_inside_module : next (exec .ret { machine with ssp := 2, data := [(0x7F, 0), (0x80, 0x20)] }) fun t =>
    t.pc = 0x20 ∧ t.ssp = 0 ∧ t.run = .running := by decide
theorem test_ret_to_vm : next (exec .ret machine) fun t => t.run = .vmSleep ∧ t.link = [] := by decide
theorem test_libcall : next (exec (.libcall 0 1) { machine with pc := 4 }) fun t =>
    t.data = [(0x7F, 0), (0x80, 6)] ∧ t.cm = 2 ∧ t.pc = 0x20 ∧ t.link.head? = some ⟨.lib, some 1, .sup, 2⟩ := by decide
theorem test_libcall_no_import : next (exec (.libcall 1 0) machine) fun t => inHandler 4 t := by decide
theorem test_libcallx_no_function : next (exec (.libcallx 0 5) machine) fun t => inHandler 2 t := by decide

/-! ### System (46_system.md) -/

theorem test_trap : next (exec (.trap 3) { user machine with pc := 0x0010 }) fun t =>
    t.data = [(0x7D, 0x00), (0x7E, 0x01), (0x7F, 0x00), (0x80, 0x12)] ∧ t.ssp = 4 ∧ inHandler 19 t := by decide
theorem test_reti : next (exec .reti
    { machine with cm := 0, ssp := 4, data := [(0x7D, 0x00), (0x7E, 0x01), (0x7F, 0x00), (0x80, 0x12)] }) fun t =>
    t.ps.toByte = 0 ∧ t.cm = 1 ∧ t.pc = 0x0012 ∧ t.ssp = 0 := by decide
theorem test_reti_user : next (exec .reti (user machine)) fun t => inHandler 1 t := by decide
theorem test_reset : next (exec .reset { user machine with ssp := 9 }) fun t =>
    t.cm = 0 ∧ t.pc = 0 ∧ t.ssp = 0 ∧ t.ps.toByte = 1 ∧ t.link = [⟨.vm, none, .sup, 0⟩] := by decide
theorem test_sleep : next (exec .sleep { machine with pc := 8 }) fun t => t.pc = 10 ∧ t.run = .asleep := by decide

/-! ### Steps -/

/-- The machine with code bytes at the program's base. -/
def withCode (bytes : List Byte) : State := { machine with code := placeCode [] 0x2000 0 bytes }

theorem test_step_runs_code : next (step (withCode [0xA3, 0x7F])) fun t => t.reg 3 = 0x7F ∧ t.pc = 2 := by decide
theorem test_step_unassigned : next (step (withCode [0x03])) fun t => inHandler 1 t := by decide
theorem test_step_outside_module : next (step { machine with pc := 0x0100 }) fun t => inHandler 2 t := by decide
theorem test_table_word : decodeTableWord 16 0x38D3 = some (.trap 3) := by decide
theorem test_fetch_word_runs : next (step (State.reset.withFetchWord 16 0x40F1)) fun t => t.reg 1 = 15 ∧ t.pc = 2 := by decide

/-! ### Files and source text (20_memory.md R84, 30_encoding.md R125 to R132) -/

/-- The file of a module "LIBX" with BSS size 0x0102, one import "CLIB", one export at offset 3, and the code
NOP NOP NOP RET, offset by offset. -/
def fileBytes : List Byte :=
  [0x4C, 0x49, 0x42, 0x58, 0, 0, 0, 0] ++ [0x02, 0x01] ++ [0x04, 0x00] ++ [0x01, 0x00] ++ [0x01, 0x00] ++
  [0x43, 0x4C, 0x49, 0x42, 0, 0, 0, 0] ++ [0x03, 0x00] ++ [0x00, 0x00] ++ [0x00, 0x00, 0x00, 0x01]

def fileContent : Executable :=
  ⟨[0x4C, 0x49, 0x42, 0x58, 0, 0, 0, 0], 0x0102, [[0x43, 0x4C, 0x49, 0x42, 0, 0, 0, 0]], [3], [0, 0, 0, 1]⟩

theorem test_file_parses : Executable.ofFile fileBytes = some fileContent := by decide
theorem test_file_written : fileContent.toFile = fileBytes := by decide
/-- "the minimal library's code at offset 0 is the single byte 0x01, so that starting it as a program returns at once"
(R239); with no kernel the system then halts (R302(d)). -/
theorem test_install_and_boot :
    (((State.reset.install ⟨[0x4C, 0, 0, 0, 0, 0, 0, 0], 0, [], [], [1]⟩ 1 0x100 0).map fun s =>
      let t := s.reboot
      (t.run, t.pc, t.cm, t.ps.m,
        match step t with
        | .next u => u.run
        | _ => .running)) = some (.running, 0, 0, true, .halted)) := by decide
theorem test_object_header :
    objectHeader [0x52, 0x45, 0x4C, 0x38, 1, 0, 2, 0] = some ((1, 0), (2, 0), []) := by decide
/-- "JMP W2 is `08 32`" (95_test_vectors.md); R131 and R238 print 0x20 + n, without the MD bit (log 23). -/
theorem test_asm_jmp : encode (asmJmp 2) = [0x08, 0x32] := by decide
theorem test_asm_move : asmMove "R1" "R0" = some (.mov .byte (.gp 1) (.gp 0)) := by decide
theorem test_asm_no_w1 : registerNamed "W1" = none := by decide
theorem test_asm_load : asmLoad "R0" "R1" (.short 3) = some (.load .byte (.gp 0) .byte (.gp 1) (.short 3)) := by decide
theorem test_asm_symbols : validSymbol ['a', 'B', '9'] = true ∧ validSymbol ['9', 'a'] = false := by decide
theorem test_asm_lines : lineKind [' ', '/', '/'] = .comment ∧ lineKind ['n', 'o', 'p'] = .instruction := by decide
theorem test_asm_asciiz : (Directive.asciiz [0x41]).bytes = [0x41, 0] := by decide

/-! ### Witnesses: states that meet the hypotheses of the obligations -/

theorem witness_EncodeDecode : decode [0x09, 0x00, 0x77] = .ok (.mov .byte (.gp 1) (.gp 0), [0x77]) := rfl

theorem witness_UnassignedRejected :
    unassigned 0x07 0 = true ∧ unassigned 0x08 0 = false ∧ unassigned 0x47 0 = false ∧ unassigned 0x48 0 = true ∧
    unassigned 0x5F 0 = true ∧ unassigned 0x60 0 = false ∧ unassigned 0x38 0x99 = false ∧ unassigned 0x38 0x9A = true := by
  decide

theorem witness_ReservedFormsRaise :
    (Instr.reti).allowed (user machine).ps.m = false ∧ (Instr.bcc false .reserved (.short 0)).allowed machine.ps.m = false := by
  decide

/-- A fetch that succeeds, one whose bytes are no instruction, and one that fails. -/
theorem witness_StepRunsDecoded :
    (withCode [0xA3, 0x7F]).outsideReset = false ∧ (withCode [0xA3, 0x7F]).arrive.interruptReady = false ∧
    (withCode [0xA3, 0x7F]).run = .running ∧ (withCode [0xA3, 0x7F]).arrive.fetchInstr = .ok [0xA3, 0x7F] ∧
    decode [0xA3, 0x7F] = .ok (.movc (.gp 3) (.short 0x7F), []) ∧
    (withCode [0x03]).arrive.fetchInstr = .ok [0x03] ∧ decode [0x03] = .error .unassignedFirstByte ∧
    ({ machine with pc := 0x0100 } : State).arrive.fetchInstr = .error (.raise .addrErr) :=
  ⟨rfl, rfl, rfl, rfl, rfl, rfl, rfl, rfl⟩

theorem witness_StepRunsEncoded :
    (withCode [0xA3, 0x7F]).outsideReset = false ∧ (withCode [0xA3, 0x7F]).arrive.interruptReady = false ∧
    (withCode [0xA3, 0x7F]).run = .running ∧
    (withCode [0xA3, 0x7F]).arrive.fetchMany (withCode [0xA3, 0x7F]).pc (Instr.movc (.gp 3) (.short 0x7F)).length =
      .ok (encode (.movc (.gp 3) (.short 0x7F))) :=
  ⟨rfl, rfl, rfl, rfl⟩

/-- No module; the last offset inside and the first one outside; an instruction fetched and one cut off. -/
theorem witness_FetchRange :
    ({ machine with cm := 9 } : State).curModule = none ∧ machine.curModule = some program ∧
    program.codeSize.toNat ≤ (0x0100 : Word).toNat ∧ (0x00FF : Word).toNat < program.codeSize.toNat ∧
    program.codeBase.toNat + (0x00FF : Word).toNat < machine.platform.codeSpaceSize ∧
    machine.fetchInstr = .ok [0x00] ∧
    ({ machine with pc := 0x00FF, code := [(0x20FF, 0x09)] } : State).fetchInstr = .error (.raise .addrErr) :=
  ⟨rfl, rfl, by decide, by decide, by decide, rfl, rfl⟩

theorem witness_IdleSteps :
    ({ machine with run := .asleep } : State).outsideReset = false ∧
    ({ machine with run := .asleep } : State).arrive.interruptReady = false ∧
    ({ machine with run := .asleep } : State).run ≠ .running ∧ State.reset.run = .halted ∧
    ({ machine with inputs := [⟨[], true⟩] } : State).outsideReset = true := by decide

/-- A machine with interrupts enabled to which interrupt 2 comes. -/
def interrupted (r : RunState) : State :=
  { machine with run := r, ps := { machine.ps with i := true }, inputs := [⟨[2], false⟩] }

/-- Event 16 + 3 and event 32 + 2 have handlers and room. -/
theorem machine_canEnter (s : State) (k : Nat) (hk : k < 48) (hm : s.mods = machine.mods) (hs : s.ssp = 0)
    (hp : s.platform = machine.platform) : s.canEnter k := by
  refine ⟨0, kernelModule, BitVec.ofNat 16 (0x40 + k), ?_, ?_, ?_, ?_⟩
  · simp only [State.kernel, hm]; decide
  · simp only [State.moduleAt, hm]; decide
  · simp [kernelModule, hk]
  · rw [hs, hp]; decide

/-- No kernel module: nothing can be entered. -/
theorem no_kernel_no_entry (s : State) (k : Nat) (h : s.kernel = none) : ¬ s.canEnter k := by
  rintro ⟨m, x, off, hm, -⟩
  rw [h] at hm
  cases hm

theorem witness_InterruptTaken :
    (interrupted .asleep).Inv ∧ (interrupted .asleep).platform.stacksFit = true ∧ (interrupted .asleep).outsideReset = false ∧
    (interrupted .asleep).ps.i = true ∧ (interrupted .asleep).arrive.pending = [2] ∧
    (interrupted .asleep).run = .asleep ∧ (interrupted .asleep).canEnter (32 + 2) ∧
    (interrupted .vmSleep).run = .vmSleep ∧ (interrupted .vmSleep).kernel = some 0 ∧
    (interrupted .vmSleep).canEnter (32 + 2) ∧
    ¬ ({ interrupted .running with mods := [program] } : State).canEnter (32 + 2) ∧
    ¬ ({ interrupted .vmSleep with ssp := 125 } : State).canEnter (32 + 2) := by
  refine ⟨⟨by decide, by decide, by decide, by decide, by decide, by decide⟩, by decide, by decide, by decide, by decide,
    by decide, ?_, by decide, by decide, ?_, ?_, ?_⟩
  · exact machine_canEnter _ _ (by decide) rfl rfl rfl
  · exact machine_canEnter _ _ (by decide) rfl rfl rfl
  · exact no_kernel_no_entry _ _ (by decide)
  · rintro ⟨m, x, off, -, -, -, h⟩
    exact absurd h (by decide)

theorem machine_inv : machine.Inv := ⟨by decide, by decide, by decide, by decide, by decide, by decide⟩

/-- For StepKeepsInv, StepKeepsCode, StepAnswersNext, StepKeepsLayout: a step of an instruction, and one that reboots. -/
theorem witness_steps :
    machine.Inv ∧ machine.layoutWf = true ∧ step machine = .next { machine with pc := 1 } ∧
    ∃ t, step { machine with inputs := [⟨[], true⟩] } = .next t ∧ t.boots ≠ machine.boots ∧
      ∃ m, m ∈ t.mods ∧ m.bssSize.toNat ≤ t.platform.dataSize :=
  ⟨machine_inv, by decide, rfl, _, rfl, by decide, _, List.mem_cons_self .., by decide⟩

/-- A user-mode store that changes a byte of its own block. -/
theorem witness_UserMode :
    let s := { user (withRegs 0xAB 0 0x3F 0) with data := [(0x23F, 0x01)] }
    ∃ t, s.platform.stacksFit = true ∧ s.ps.m = false ∧ exec (.store .byte (.gp 0) .byte (.gp 2) .none) s = .next t ∧ t.boots = s.boots ∧
      t.dataByte 0x23F ≠ s.dataByte 0x23F :=
  ⟨_, by decide, rfl, rfl, rfl, by decide⟩

theorem witness_LeavingSupervisor :
    ∃ t, machine.ps.m = true ∧ exec (.clrbc .byte (.special .ps) 0) machine = .next t ∧ t.ps.m = false :=
  ⟨_, rfl, rfl, rfl⟩

theorem witness_ModuleSwitches :
    ∃ t, exec .nop machine = .next t ∧ t.boots = machine.boots ∧ (Instr.nop).switchesModule = false := ⟨_, rfl, rfl, rfl⟩

theorem witness_StackPointers :
    machine.ps.m = true ∧ (user machine).ps.m = false ∧ (∃ t, machine.push .word 0x1234 = .ok t) ∧
    machine.sp.toNat + 2 < 65536 ∧ (∃ x t, ({ machine with ssp := 2 } : State).pop .word = .ok (x, t)) :=
  ⟨rfl, rfl, ⟨_, rfl⟩, by decide, ⟨_, _, rfl⟩⟩

theorem witness_PopRule :
    machine.sp.toNat < Size.byte.bytes ∧ Size.word.bytes ≤ ({ machine with ssp := 2 } : State).sp.toNat ∧
    ({ machine with ssp := 2, data := [(0x7F, 0x00), (0x80, 0x20)] } : State).memRead (.stack .sup) 0 .word = .ok 0x0020 ∧
    machine.platform.stacksFit = true ∧
    machine.platform.stackSize .sup < ({ machine with ssp := 129 } : State).sp.toNat ∧
    ({ machine with ssp := 128 } : State).sp.toNat ≤ machine.platform.stackSize .sup ∧
    ({ machine with ssp := 129 } : State).memRead (.stack .sup) (129 - 2) .word = .error (.raise .stackErr) :=
  ⟨by decide, by decide, rfl, by decide, by decide, by decide, rfl⟩

theorem witness_MoveCompletes :
    (Instr.mov .byte (.special .ps) (.gp 0)).allowed machine.ps.m = true ∧
    (Instr.mov .word (.gp 7) (.special .sp)).allowed (user machine).ps.m = true ∧
    (Instr.movc (.special .pc) (.long 0x10)).allowed machine.ps.m = true := by decide

theorem witness_LogicCompletes :
    (Instr.xor .byte (.special .as) (.special .cm)).allowed machine.ps.m = true ∧
    (Instr.and .word (.special .pc) (.gp 0)).allowed machine.ps.m = true ∧
    (Instr.or .byte (.special .ps) (.gp 0)).allowed machine.ps.m = true := by decide

/-- Both orders, on the values 5 and 1. -/
theorem witness_InOrder :
    InOrder (withRegs 5 1 0 0) (1 : Byte) (5 : Byte) 1 5 ∧
    InOrder { machine with platform := { Platform.reset with subOrder := .dstMinusSrc } } (1 : Byte) (5 : Byte) 5 1 :=
  ⟨⟨fun _ => ⟨rfl, rfl⟩, fun h => absurd h (by decide)⟩, ⟨fun h => absurd h (by decide), fun _ => ⟨rfl, rfl⟩⟩⟩

theorem witness_TestFamilyCompletes : (Instr.testc (.special .cm) (.short 1)).allowed machine.ps.m = true := by decide

theorem witness_ConditionsCompare : 0 < 8 ∧ DiffFlags ⟨false, true, true, false⟩ (1 : Byte) 5 false 0xFC := by
  refine ⟨by decide, by decide, by decide, by decide, ?_⟩
  decide

theorem witness_DivCompletes :
    (Instr.div .byte true .byte 0 1).wellFormed = true ∧ (GpValue (withRegs 17 5 0 0) 1 .byte).toNat ≠ 0 ∧
    (GpValue (withRegs 17 0 0 0) 1 .byte).toNat = 0 ∧ (Instr.div .word false .word 0 2).wellFormed = true := by decide

theorem witness_BitCompletes :
    (Instr.clrbc .word (.special .pc) 0).allowed machine.ps.m = true ∧
    (Instr.testb .byte (.special .cm) 0).allowed machine.ps.m = true ∧
    (Instr.testbc (.special .sp) 9).allowed machine.ps.m = true ∧ Special.size .sp = some .word := by decide

/-- The last offset of the block in user mode and the first one outside it; the last data address and the last offset;
the last stack index and the first one outside. -/
theorem witness_AddressTable :
    machine.curModule = some program ∧ (user machine).ps.m = false ∧ program.bssSize.toNat ≤ 64 ∧
    63 < program.bssSize.toNat ∧ machine.platform.dataSize ≤ program.bssBase.toNat + 0xE00 ∧
    program.bssBase.toNat + 0xDFF < machine.platform.dataSize ∧ 0xDFF < 0x10000 ∧ machine.platform.stackSize .sup ≤ 128 ∧
    127 < machine.platform.stackSize .sup ∧ machine.platform.stacksFit = true ∧
    (Operand.special .as).baseWf .byte = false := by decide

theorem witness_ByteOrder : ∃ t, machine.memWrite .bss 0x10 .word 0x1234 = .ok t := ⟨_, rfl⟩

/-- LOAD and STORE of a word at the last offset of the user's block. -/
theorem witness_LoadStoreCompletes :
    let s := user (withRegs 0 0 0x3E 0)
    (Instr.load .word (.gp 0) .byte (.gp 2) .none).allowed s.ps.m = true ∧
    (Instr.store .word (.gp 0) .byte (.gp 2) .none).allowed s.ps.m = true ∧
    ¬ (s.ps.sm = true ∧ Index.none = .none ∧ Operand.gp 2 = .special .sp) ∧
    s.base .byte (.gp 2) = .ok (.bss, 0x003E) ∧ s.cell .bss (effectiveAddress 0x003E .none) = .ok 0x23E ∧
    s.cell .bss (effectiveAddress 0x003E .none + 1) = .ok 0x23F :=
  ⟨rfl, rfl, by decide, rfl, rfl, rfl⟩

theorem witness_PushPopCompletes :
    let s := { stacked machine with ssp := 126 }
    (Instr.load .word (.special .sp) .word (.special .sp) .none).allowed s.ps.m = true ∧
    (Instr.store .word (.special .sp) .word (.special .sp) .none).allowed s.ps.m = true ∧
    s.platform.stacksFit = true ∧ s.ps.sm = true ∧ s.holds 2 ∧ s.room 2 ∧ s.sp.toNat + 2 < 65536 :=
  ⟨rfl, rfl, by decide, rfl, ⟨by decide, by decide⟩, by simp only [State.room]; decide, by decide⟩

/-- A first byte outside, a second byte outside, an underflow, an SP above the capacity and an overflow. -/
theorem witness_AccessTraps :
    (user (withRegs 0 0 0x40 0)).cell .bss (effectiveAddress 0x0040 .none) = .error (.raise .addrErr) ∧
    (user (withRegs 0 0 0x3F 0)).cell .bss (effectiveAddress 0x003F .none) = .ok 0x23F ∧
    (user (withRegs 0 0 0x3F 0)).cell .bss (effectiveAddress 0x003F .none + 1) = .error (.raise .addrErr) ∧
    (user (withRegs 0 0 0x40 0)).base .byte (.gp 2) = .ok (.bss, 0x0040) ∧
    (stacked machine).sp.toNat < 1 ∧ (stacked machine).ps.sm = true ∧
    machine.platform.stacksFit = true ∧ ¬ ({ stacked machine with ssp := 129 } : State).holds 1 ∧
    ¬ ({ stacked machine with ssp := 127 } : State).room 2 :=
  ⟨rfl, rfl, rfl, rfl, by decide, rfl, by decide, by simp only [State.holds]; decide, by simp only [State.room]; decide⟩

theorem witness_IoctlCompletes :
    let s := withRegs 0 0 0xFE 0
    (Instr.ioctlIn .word (.gp 0) .byte (.gp 2) .none).allowed s.ps.m = true ∧
    (Instr.ioctlOut .word (.gp 0) .byte (.gp 2) .none).allowed s.ps.m = true ∧ s.ps.m = true ∧
    effectiveAddress ((GpValue s 2 .byte).setWidth 16) .none + 2 ≤ s.platform.ioSize := by decide

theorem witness_IoctlTraps :
    let s := withRegs 0 0 0xFF 0
    s.ps.m = true ∧ s.platform.ioSize < effectiveAddress ((GpValue s 2 .byte).setWidth 16) .none + 2 ∧
    (Instr.ioctlIn .word (.gp 0) .byte (.gp 2) .none).wellFormed = true ∧
    (Instr.ioctlOut .word (.gp 0) .byte (.gp 2) .none).wellFormed = true := by decide

theorem witness_NopCompletes : Memory.listed machine.code 0x2000 = none := by decide

/-- Not taken, taken, taken with room, taken without room. -/
theorem witness_BccCompletes :
    (Cond.eq ≠ .reserved) ∧ machine.platform.stacksFit = true ∧ machine.flags.cond .eq = false ∧
    machine.flags.cond .ge = true ∧ ({ machine with ssp := 126 } : State).room 2 ∧
    ¬ ({ machine with ssp := 127 } : State).room 2 := by
  simp only [State.room]
  decide

theorem witness_JsrCompletes :
    machine.platform.stacksFit = true ∧ ({ machine with ssp := 126 } : State).room 2 ∧
    ¬ ({ machine with ssp := 127 } : State).room 2 := by
  simp only [State.room]
  decide

/-- A plain return, a return by a `lib` record, an underflow and an SP above the capacity under an unmatched `vm`
record. -/
theorem witness_RetCompletes :
    machine.platform.stacksFit = true ∧ ¬ ({ machine with ssp := 2 } : State).linkMatches ∧
    ({ machine with ssp := 2 } : State).holds 2 ∧
    ({ machine with ssp := 2, link := [⟨.lib, some 1, .sup, 2⟩, ⟨.vm, none, .sup, 0⟩] } : State).link =
      ⟨.lib, some 1, machine.curStack, ({ machine with ssp := 2 } : State).sp⟩ :: machine.link ∧
    (∀ r, machine.link.head? = some r → ¬ (r.kind = .vm ∧ r.stack = machine.curStack ∧ r.sp = 1)) ∧
    ¬ ({ machine with ssp := 1 } : State).holds 2 ∧ ¬ ({ machine with ssp := 129 } : State).holds 2 := by
  refine ⟨by decide, ?_, ⟨by decide, by decide⟩, by decide, ?_, by simp only [State.holds]; decide,
    by simp only [State.holds]; decide⟩
  · rintro ⟨r, hr, -, hs, -⟩
    obtain rfl := Option.some.inj hr
    exact absurd hs (by decide)
  · rintro r hr ⟨-, -, hs⟩
    obtain rfl := Option.some.inj hr
    exact absurd hs (by decide)

/-- The kernel's return with and without an application; the application's with and without a kernel. -/
theorem witness_RetToVmCompletes :
    machine.link = ⟨.vm, none, machine.curStack, machine.sp⟩ :: [] ∧
    ({ machine with vmPhase := .kernel } : State).defaultApp = some 1 ∧
    ({ machine with vmPhase := .kernel, mods := [kernelModule] } : State).defaultApp = none ∧
    machine.vmPhase = .application ∧ machine.kernel ≠ none ∧ ({ machine with mods := [program] } : State).kernel = none := by
  decide

theorem witness_LibcallCompletes :
    machine.platform.stacksFit = true ∧ machine.curModule = some program ∧ program.imports[0]? = some library.name ∧
    machine.mods[2]? = some library ∧ kernelModule.name ≠ library.name ∧ program.name ≠ library.name ∧
    library.exports[1]? = some 0x0020 ∧ machine.room 2 ∧ (0 : BitVec 4).toNat = 0 ∧ (1 : BitVec 6).toNat = 1 := by
  simp only [State.room]
  decide

theorem witness_LibcallTraps :
    machine.curModule = some program ∧ program.imports.length ≤ 1 ∧
    (∀ y ∈ ({ machine with mods := [kernelModule, program] } : State).mods, y.name ≠ library.name) ∧
    library.exports.length ≤ 2 ∧ 1 < library.exports.length ∧ ¬ ({ machine with ssp := 127 } : State).room 2 := by
  simp only [State.room]
  decide

theorem witness_LibcallThenRet :
    ∃ t, machine.platform.stacksFit = true ∧ machine.sp.toNat + 2 < 65536 ∧ exec (.libcall 0 1) machine = .next t ∧
      t.link.length = machine.link.length + 1 ∧ t.boots = machine.boots ∧
      ∃ u, exec (.libcallx 0 1) machine = .next u ∧ u.link.length = machine.link.length + 1 ∧ u.boots = machine.boots :=
  ⟨_, by decide, by decide, rfl, rfl, rfl, _, rfl, rfl, rfl⟩

theorem witness_EventEntersHandler :
    machine.platform.stacksFit = true ∧ machine.canEnter 19 ∧ machine.canEnter 0 ∧ machine.canEnter 4 ∧
    ¬ ({ machine with mods := [program] } : State).canEnter 19 :=
  ⟨by decide, machine_canEnter _ _ (by decide) rfl rfl rfl, machine_canEnter _ _ (by decide) rfl rfl rfl,
    machine_canEnter _ _ (by decide) rfl rfl rfl, no_kernel_no_entry _ _ (by decide)⟩

/-- A frame at the bottom of the stack and at its top, an `idle` record, too few bytes, and SSP above the capacity. -/
theorem witness_RetiCompletes :
    machine.platform.stacksFit = true ∧ machine.ps.m = true ∧ 4 ≤ ({ machine with ssp := 4 } : State).ssp.toNat ∧
    ({ machine with ssp := 128 } : State).ssp.toNat ≤ machine.platform.sizeS ∧
    (∀ r, machine.link.head? = some r → ¬ (r.kind = .idle ∧ r.sp = 4)) ∧
    ({ machine with ssp := 4, link := [⟨.idle, none, .sup, 4⟩] } : State).link = ⟨.idle, none, .sup, 4⟩ :: [] ∧
    ({ machine with ssp := 3 } : State).ssp.toNat < 4 ∧
    machine.platform.sizeS < ({ machine with ssp := 129 } : State).ssp.toNat := by
  refine ⟨by decide, by decide, by decide, by decide, ?_, by decide, by decide, by decide⟩
  intro r hr
  obtain rfl := Option.some.inj hr
  decide

theorem witness_TrapThenReti :
    machine.platform.stacksFit = true ∧ machine.canEnter (16 + (3 : BitVec 4).toNat) ∧ machine.ssp.toNat + 4 < 65536 ∧
    (∀ r, machine.link.head? = some r → ¬ (r.kind = .idle ∧ r.sp = machine.ssp + 4)) := by
  refine ⟨by decide, machine_canEnter _ _ (by decide) rfl rfl rfl, by decide, ?_⟩
  intro r hr
  obtain rfl := Option.some.inj hr
  decide

/-- A kernel, an application alone, and neither. -/
theorem witness_ResetCompletes :
    machine.kernel = some 0 ∧ ({ machine with mods := [program] } : State).kernel = none ∧
    ({ machine with mods := [program] } : State).defaultApp = some 0 ∧ State.reset.kernel = none ∧
    State.reset.defaultApp = none := by decide

end Sys2Proof.Tests
end

/-! PROOFS. What one step runs, and that on an allowed layout it always answers a next state. An operation of
Machine/Ops.lean can only raise; the fetch alone can fault, and an allowed module table keeps it from doing so. -/

namespace Sys2Proof.Machine

/-! ### Operations that end without a fault -/

/-- The operation ends with a value or an exception, never with a fault. -/
def NoFault {α : Type} (x : Try α) : Prop := ∀ f, x ≠ .error (.fault f)

theorem noFault_ok {α : Type} (a : α) : NoFault (.ok a : Try α) := fun _ h => nomatch h

theorem noFault_raise {α : Type} (e : Exc) : NoFault (.error (.raise e) : Try α) := fun _ h => nomatch h

theorem noFault_bind {α β : Type} {x : Try α} {g : α → Try β} (hx : NoFault x) (hg : ∀ a, NoFault (g a)) :
    NoFault (x >>= g) := by
  intro f h
  obtain hf | ⟨a, -, hf⟩ := try_bind_error.mp h
  · exact hx f hf
  · exact hg a f hf

theorem noFault_need (e : Exc) (b : Bool) : NoFault (need e b) := by
  intro f h
  obtain ⟨-, hf⟩ := (need_error ..).mp h
  cases hf

/-- A check in front of an operation adds no fault. -/
theorem noFault_need_bind {β : Type} (e : Exc) (b : Bool) {g : Unit → Try β} (hg : ∀ u, NoFault (g u)) :
    NoFault (need e b >>= g) :=
  noFault_bind (noFault_need e b) hg

theorem noFault_ite {α : Type} {c : Prop} [Decidable c] {x y : Try α} (hx : NoFault x) (hy : NoFault y) :
    NoFault (if c then x else y) := by
  split
  · exact hx
  · exact hy

/-! ### Data space, stacks and IO space (20_memory.md R66 to R74) -/

theorem State.cell_noFault (s : State) (sp : Space) (a : Nat) : NoFault (s.cell sp a) := by
  intro f h
  obtain hf | hf := State.cell_error h <;> cases hf

theorem State.memRead_noFault (s : State) (sp : Space) (a : Nat) : (sz : Size) → NoFault (s.memRead sp a sz)
  | .byte => noFault_bind (s.cell_noFault _ _) fun _ => noFault_ok _
  | .word => noFault_bind (s.cell_noFault _ _) fun _ => noFault_bind (s.cell_noFault _ _) fun _ => noFault_ok _

theorem State.memWrite_noFault (s : State) (sp : Space) (a : Nat) :
    (sz : Size) → (v : BitVec sz.bits) → NoFault (s.memWrite sp a sz v)
  | .byte, _ => noFault_bind (s.cell_noFault _ _) fun _ => noFault_ok _
  | .word, _ => noFault_bind (s.cell_noFault _ _) fun _ => noFault_bind (s.cell_noFault _ _) fun _ => noFault_ok _

theorem State.push_noFault (s : State) (sz : Size) (v : BitVec sz.bits) : NoFault (s.push sz v) :=
  noFault_need_bind _ _ fun _ => noFault_bind (s.memWrite_noFault _ _ _ _) fun _ => noFault_ok _

theorem State.pop_noFault (s : State) (sz : Size) : NoFault (s.pop sz) :=
  noFault_need_bind _ _ fun _ => noFault_bind (s.memRead_noFault _ _ _) fun _ => noFault_ok _

theorem State.portOk_noFault (s : State) (port : Nat) : NoFault (s.portOk port) := noFault_need _ _

theorem State.ioRead_noFault (s : State) (port : Nat) : (sz : Size) → NoFault (s.ioRead port sz)
  | .byte => noFault_bind (s.portOk_noFault _) fun _ => noFault_ok _
  | .word => noFault_bind (s.portOk_noFault _) fun _ => noFault_bind (s.portOk_noFault _) fun _ => noFault_ok _

theorem State.ioWrite_noFault (s : State) (port : Nat) :
    (sz : Size) → (v : BitVec sz.bits) → NoFault (s.ioWrite port sz v)
  | .byte, _ => noFault_bind (s.portOk_noFault _) fun _ => noFault_ok _
  | .word, _ => noFault_bind (s.portOk_noFault _) fun _ => noFault_bind (s.portOk_noFault _) fun _ => noFault_ok _

/-! ### Operands and bits -/

theorem State.base_noFault (s : State) (db : Size) (o : Operand) : NoFault (s.base db o) := by
  cases o with
  | gp n => exact noFault_ok _
  | special r =>
    simp only [State.base]
    split
    · exact noFault_ok _
    · exact noFault_ok _
    · exact noFault_ok _
    · exact noFault_raise _

theorem State.portBase_noFault (s : State) (db : Size) : (o : Operand) → NoFault (s.portBase db o)
  | .gp _ => noFault_ok _
  | .special _ => noFault_raise _

theorem State.changeBit_noFault (s : State) (value : Bool) (sd : Size) (d : Operand) (i : Nat) :
    NoFault (s.changeBit value sd d i) :=
  noFault_need_bind _ _ fun _ => noFault_ite (noFault_ok _) (noFault_ok _)

theorem State.testBit_noFault (s : State) (sd : Size) (d : Operand) (i : Nat) : NoFault (s.testBit sd d i) :=
  noFault_need_bind _ _ fun _ => noFault_ok _

/-! ### Calls and returns -/

theorem State.resolve_noFault (s : State) (i f : Nat) : NoFault (s.resolve i f) := by
  unfold State.resolve
  split
  · exact noFault_raise _
  · split
    · exact noFault_raise _
    · split
      · exact noFault_raise _
      · exact noFault_ok _

theorem State.callModule_noFault (s : State) (i f : Nat) (next : Word) : NoFault (s.callModule i f next) :=
  noFault_bind (s.resolve_noFault _ _) fun _ => noFault_bind (s.push_noFault _ _) fun _ => noFault_ok _

theorem State.returnFromSub_noFault (s : State) : NoFault s.returnFromSub := by
  unfold State.returnFromSub
  split
  · exact noFault_ok _
  · exact noFault_bind (s.pop_noFault _) fun _ => noFault_ok _
  · exact noFault_bind (s.pop_noFault _) fun _ => noFault_ok _

theorem State.returnFromException_noFault (s : State) : NoFault s.returnFromException :=
  noFault_need_bind _ _ fun _ => noFault_need_bind _ _ fun _ =>
    noFault_bind (State.pop_noFault _ _) fun _ => noFault_bind (State.pop_noFault _ _) fun _ =>
      noFault_bind (State.pop_noFault _ _) fun _ => noFault_ite (noFault_ok _) (noFault_ok _)

theorem State.pushFrame_noFault (s : State) (kind : EventKind) (retpc : Word) : NoFault (s.pushFrame kind retpc) :=
  noFault_bind (State.push_noFault _ _ _) fun _ => noFault_bind (State.push_noFault _ _ _) fun _ =>
    State.push_noFault _ _ _

/-! ### Every instruction answers a next state -/

/-- Taking an event ends in the handler or in a reboot (60_exceptions.md R266, R269, R273). -/
theorem State.enter_answers (s : State) (kind : EventKind) (k : Nat) (retpc : Word) :
    ∃ t, s.enter kind k retpc = .next t := by
  unfold State.enter
  split
  · exact ⟨_, rfl⟩
  · split
    next => exact ⟨_, rfl⟩
    next => exact ⟨_, rfl⟩
    next f hf => exact absurd hf (s.pushFrame_noFault kind retpc f)

theorem State.raise_answers (s : State) (e : Exc) : ∃ t, s.raise e = .next t := s.enter_answers ..

/-- An instruction whose operation does not fault ends in its result or in the exception it raises. -/
theorem State.finish_answers (s : State) {r : Try State} (hr : NoFault r) : ∃ t, s.finish r = .next t := by
  match r, hr with
  | .ok t, _ => exact ⟨t, rfl⟩
  | .error (.raise e), _ => exact s.raise_answers e
  | .error (.fault f), hr => exact absurd rfl (hr f)

/-- No instruction faults or is refused, in any state. -/
theorem exec_answers (i : Instr) (s : State) : ∃ t, exec i s = .next t := by
  cases i with
  | nop | reset | sleep | add | addc | sub | subb | test | sext | cmpl | addq | subq | mulq
  | shift | rot | shiftc | rotc => exact ⟨_, rfl⟩
  | swap sz rd rs => cases sz <;> exact ⟨_, rfl⟩
  | trap num => exact s.enter_answers ..
  | ret => exact s.finish_answers s.returnFromSub_noFault
  | reti => exact s.finish_answers s.returnFromException_noFault
  | mov | xor | and | or | movc | testc => exact s.finish_answers (noFault_need_bind _ _ fun _ => noFault_ok _)
  | mul =>
    exact s.finish_answers (noFault_need_bind _ _ fun _ => noFault_ite (noFault_ok _) (noFault_ok _))
  | div =>
    exact s.finish_answers (noFault_need_bind _ _ fun _ => noFault_need_bind _ _ fun _ =>
      noFault_ite (noFault_ok _) (noFault_ok _))
  | clrb | clrbc | setb | setbc => exact s.finish_answers (s.changeBit_noFault _ _ _ _)
  | testb | testbc => exact s.finish_answers (s.testBit_noFault _ _ _)
  | jsr => exact s.finish_answers (noFault_bind (s.push_noFault _ _) fun _ => noFault_ok _)
  | libcallx | libcall => exact s.finish_answers (s.callModule_noFault _ _ _)
  | load =>
    exact s.finish_answers (noFault_need_bind _ _ fun _ => noFault_bind (s.base_noFault _ _) fun _ =>
      noFault_ite (noFault_bind (s.pop_noFault _) fun _ => noFault_ok _)
        (noFault_bind (s.memRead_noFault _ _ _) fun _ => noFault_ok _))
  | store =>
    exact s.finish_answers (noFault_need_bind _ _ fun _ => noFault_bind (s.base_noFault _ _) fun _ =>
      noFault_ite (noFault_bind (s.push_noFault _ _) fun _ => noFault_ok _)
        (noFault_bind (s.memWrite_noFault _ _ _ _) fun _ => noFault_ok _))
  | ioctlIn =>
    exact s.finish_answers (noFault_need_bind _ _ fun _ => noFault_bind (s.portBase_noFault _ _) fun _ =>
      noFault_need_bind _ _ fun _ => noFault_bind (s.ioRead_noFault _ _) fun _ => noFault_ok _)
  | ioctlOut =>
    exact s.finish_answers (noFault_need_bind _ _ fun _ => noFault_bind (s.portBase_noFault _ _) fun _ =>
      noFault_need_bind _ _ fun _ => noFault_bind (s.ioWrite_noFault _ _ _) fun _ => noFault_ok _)
  | bcc =>
    exact s.finish_answers (noFault_need_bind _ _ fun _ =>
      noFault_ite
        (noFault_ite (noFault_bind (s.push_noFault _ _) fun _ => noFault_ok _) (noFault_ok _))
        (noFault_ok _))

/-! ### The fetch on an allowed layout -/

/-- On an allowed layout the current module's code lies in code space (20_memory.md R61). -/
theorem State.curModule_code_fits {s : State} {m : Module} (hw : s.layoutWf = true) (hm : s.curModule = some m) :
    m.codeBase.toNat + m.codeSize.toNat ≤ s.platform.codeSpaceSize := by
  simp only [State.layoutWf, modsWf, Bool.and_eq_true, List.all_eq_true] at hw
  obtain ⟨-, ⟨⟨-, hmods⟩, -⟩, -⟩ := hw
  have hmw := hmods m (List.mem_of_getElem? hm)
  simp only [Module.wf, Bool.and_eq_true, decide_eq_true_eq] at hmw
  obtain ⟨⟨hcode, -⟩, -⟩ := hmw
  exact hcode

/-- The range check of a fetch covers code space: the one fault of the model is out of reach (log 7). -/
theorem State.fetch_noFault {s : State} (hw : s.layoutWf = true) (p : Word) : NoFault (s.fetch p) := by
  unfold State.fetch
  split
  · exact noFault_raise _
  next m hm =>
    have hfits := State.curModule_code_fits hw hm
    split
    next hp => rw [if_pos (by omega)]; exact noFault_ok _
    next => exact noFault_raise _

theorem State.fetchMany_noFault {s : State} (hw : s.layoutWf = true) (p : Word) (n : Nat) :
    NoFault (s.fetchMany p n) := by
  induction n generalizing p with
  | zero => exact noFault_ok _
  | succ n ih => exact noFault_bind (State.fetch_noFault hw p) fun _ => noFault_bind (ih _) fun _ => noFault_ok _

theorem State.fetchInstr_noFault {s : State} (hw : s.layoutWf = true) : NoFault s.fetchInstr :=
  noFault_bind (State.fetch_noFault hw _) fun _ =>
    noFault_ite
      (noFault_bind (State.fetch_noFault hw _) fun _ =>
        noFault_bind (State.fetchMany_noFault hw _ _) fun _ => noFault_ok _)
      (noFault_ok _)

/-! ### What a step runs (60_exceptions.md R268) -/

@[simp] theorem State.arrive_pc (s : State) : s.arrive.pc = s.pc := by rw [State.arrive_frame]

theorem State.arrive_layoutWf (s : State) : s.arrive.layoutWf = s.layoutWf := by
  rw [State.arrive_frame]
  rfl

theorem State.runInstr_decoded {s : State} {bytes rest : List Byte} {i : Instr} (hf : s.fetchInstr = .ok bytes)
    (hd : decode bytes = .ok (i, rest)) : s.runInstr = exec i s := by
  simp only [State.runInstr, hf, hd]

theorem State.runInstr_rejected {s : State} {bytes : List Byte} {r : Reject} (hf : s.fetchInstr = .ok bytes)
    (hd : decode bytes = .error r) : s.runInstr = s.raise .badInstr := by
  simp only [State.runInstr, hf, hd]

theorem State.runInstr_raised {s : State} {e : Exc} (hf : s.fetchInstr = .error (.raise e)) :
    s.runInstr = s.raise e := by
  simp only [State.runInstr, hf]

/-- A running machine with no reset and no interrupt to take fetches, decodes and executes. -/
theorem step_eq_runInstr {s : State} (hreset : s.outsideReset = false) (hready : s.arrive.interruptReady = false)
    (hrun : s.run = .running) : step s = s.arrive.runInstr := by
  simp [step, hreset, hready, hrun]

theorem State.takeInterrupt_answers (s : State) : ∃ t, s.takeInterrupt = .next t := by
  unfold State.takeInterrupt
  split
  · exact ⟨s, rfl⟩
  · dsimp only
    split
    · exact State.enter_answers ..
    · exact State.enter_answers ..

theorem State.runInstr_answers {s : State} (hw : s.layoutWf = true) : ∃ t, s.runInstr = .next t := by
  match hf : s.fetchInstr with
  | .error (.fault f) => exact absurd hf (State.fetchInstr_noFault hw f)
  | .error (.raise e) => exact State.runInstr_raised hf ▸ s.raise_answers e
  | .ok bytes =>
    match hd : decode bytes with
    | .ok (i, _) => exact State.runInstr_decoded hf hd ▸ exec_answers i s
    | .error _ => exact State.runInstr_rejected hf hd ▸ s.raise_answers .badInstr

/-! ### The obligations -/

/-- Settles O15: each branch of `step` answers, the instruction's because an allowed layout keeps the fetch in code
space and no meaning faults. -/
theorem stepAnswersNext : Obligations.StepAnswersNext := by
  intro s hw
  unfold step
  split
  · exact ⟨_, rfl⟩
  · split
    · exact State.takeInterrupt_answers _
    · split
      · exact State.runInstr_answers (s.arrive_layoutWf.trans hw)
      all_goals exact ⟨_, rfl⟩

/-- Settles O7: the step is the instruction's run, whose three outcomes are those of fetch and decode. -/
theorem stepRunsDecoded : Obligations.StepRunsDecoded := by
  intro s hreset hready hrun
  rw [step_eq_runInstr hreset hready hrun]
  exact ⟨fun _ _ _ hf hd => State.runInstr_decoded hf hd, fun _ _ hf hd => State.runInstr_rejected hf hd,
    fun _ hf => State.runInstr_raised hf⟩

end Sys2Proof.Machine

/-! PROOFS. Encoding, decoding and lengths agree (30_encoding.md R100 to R112), and so a step runs the instruction
whose encoding stands at PC. -/

namespace Sys2Proof

/-! ### Fields read back from their bits -/

@[simp] theorem Size.ofBit_bit (sz : Size) : Size.ofBit sz.bit[0] = sz := by cases sz <;> rfl

@[simp] theorem Direction.ofBit_bit (dir : Direction) : Direction.ofBit dir.bit[0] = dir := by cases dir <;> rfl

@[simp] theorem Special.ofNum_num (r : Special) : Special.ofNum r.num = r := by cases r <;> rfl

@[simp] theorem Cond.ofNum_num (cc : Cond) : Cond.ofNum cc.num = cc := by cases cc <;> rfl

@[simp] theorem Operand.ofBits_mode_num (o : Operand) : Operand.ofBits o.mode[0] o.num = o := by
  cases o <;> simp [Operand.ofBits, Operand.mode, Operand.num]

@[simp] theorem bit1_getElem (b : Bool) : (bit1 b)[0] = b := by cases b <;> rfl

/-! ### The fields of a byte, by its layout

Each layout of R102 to R111 as a concatenation of fields, highest first; `r` is a register number. -/

@[simp] theorem lowNibble_append (x v : BitVec 4) : lowNibble (x ++ v) = v := by revert x v; decide

@[simp] theorem highNibble_append (v x : BitVec 4) : highNibble (v ++ x) = v := by revert x v; decide

/-- A first byte `op RD` (R103 to R107). -/
@[simp] theorem opcode_fields (op : BitVec 5) (r : RegNum) :
    (op ++ r : Byte).extractLsb' 3 5 = op ∧ lowReg (op ++ r) = r := by
  revert op r; decide

/-- A first byte `op x y RD` of three-bit opcodes (R110, R111). -/
@[simp] theorem wideOpcode_fields (op : BitVec 3) (x y : BitVec 1) (r : RegNum) :
    (op ++ x ++ y ++ r : Byte).extractLsb' 3 5 = op ++ x ++ y ∧ (op ++ x ++ y ++ r : Byte)[6] = op[1] ∧
    (op ++ x ++ y ++ r : Byte)[5] = op[0] ∧ (op ++ x ++ y ++ r : Byte)[4] = x[0] ∧
    (op ++ x ++ y ++ r : Byte)[3] = y[0] ∧ lowReg (op ++ x ++ y ++ r) = r := by
  revert op x y r; decide

/-- Fields of 2, 1, 1, 1 and 3 bits: the second byte of R103, MUL, DIV and the register forms of R106. -/
@[simp] theorem fields_two_register (o : BitVec 2) (x y z : BitVec 1) (r : RegNum) :
    (o ++ x ++ y ++ z ++ r : Byte)[7] = o[1] ∧ (o ++ x ++ y ++ z ++ r : Byte)[6] = o[0] ∧
    (o ++ x ++ y ++ z ++ r : Byte)[5] = x[0] ∧ (o ++ x ++ y ++ z ++ r : Byte)[4] = y[0] ∧
    (o ++ x ++ y ++ z ++ r : Byte)[3] = z[0] ∧ lowReg (o ++ x ++ y ++ z ++ r) = r := by
  revert o x y z r; decide

/-- Fields of 2, 1, 1 and 4 bits: the constant forms of R106. -/
@[simp] theorem fields_two_nibble (o : BitVec 2) (x y : BitVec 1) (v : BitVec 4) :
    (o ++ x ++ y ++ v : Byte)[7] = o[1] ∧ (o ++ x ++ y ++ v : Byte)[6] = o[0] ∧
    (o ++ x ++ y ++ v : Byte)[5] = x[0] ∧ (o ++ x ++ y ++ v : Byte)[4] = y[0] ∧
    lowNibble (o ++ x ++ y ++ v) = v := by
  revert o x y v; decide

/-- The second byte of ADD, ADDC, SUB, SUBB, TEST and SWAP: bits 4 and 3 are zero (R103). -/
@[simp] theorem fields_arith (o : BitVec 2) (x : BitVec 1) (r : RegNum) :
    (o ++ x ++ 0b00#2 ++ r : Byte)[7] = o[1] ∧ (o ++ x ++ 0b00#2 ++ r : Byte)[6] = o[0] ∧
    (o ++ x ++ 0b00#2 ++ r : Byte)[5] = x[0] ∧ (o ++ x ++ 0b00#2 ++ r : Byte)[4] = false ∧
    (o ++ x ++ 0b00#2 ++ r : Byte)[3] = false ∧ lowReg (o ++ x ++ 0b00#2 ++ r) = r := by
  revert o x r; decide

/-- Five one-bit fields and a number: SHIFT, ROT (R105) and format FMEM (R110). -/
@[simp] theorem fields_five_register (w o x y z : BitVec 1) (r : RegNum) :
    (w ++ o ++ x ++ y ++ z ++ r : Byte)[7] = w[0] ∧ (w ++ o ++ x ++ y ++ z ++ r : Byte)[6] = o[0] ∧
    (w ++ o ++ x ++ y ++ z ++ r : Byte)[5] = x[0] ∧ (w ++ o ++ x ++ y ++ z ++ r : Byte)[4] = y[0] ∧
    (w ++ o ++ x ++ y ++ z ++ r : Byte)[3] = z[0] ∧ lowReg (w ++ o ++ x ++ y ++ z ++ r) = r := by
  revert w o x y z r; decide

/-- Four one-bit fields and a constant: SHIFTC, ROTC (R105). -/
@[simp] theorem fields_four_nibble (w o x y : BitVec 1) (v : BitVec 4) :
    (w ++ o ++ x ++ y ++ v : Byte)[7] = w[0] ∧ (w ++ o ++ x ++ y ++ v : Byte)[6] = o[0] ∧
    (w ++ o ++ x ++ y ++ v : Byte)[5] = x[0] ∧ (w ++ o ++ x ++ y ++ v : Byte)[4] = y[0] ∧
    lowNibble (w ++ o ++ x ++ y ++ v) = v := by
  revert w o x y v; decide

/-- The second byte of TESTB (R106). -/
@[simp] theorem fields_testb (x y : BitVec 1) (r : RegNum) :
    (0b000#3 ++ x ++ y ++ r : Byte)[7] = false ∧ (0b000#3 ++ x ++ y ++ r : Byte)[6] = false ∧
    (0b000#3 ++ x ++ y ++ r : Byte)[5] = false ∧ (0b000#3 ++ x ++ y ++ r : Byte)[4] = x[0] ∧
    (0b000#3 ++ x ++ y ++ r : Byte)[3] = y[0] ∧ lowReg (0b000#3 ++ x ++ y ++ r) = r := by
  revert x y r; decide

/-- The second byte of TESTBC (R106). -/
@[simp] theorem fields_testbc (x : BitVec 1) (v : BitVec 4) :
    (0b010#3 ++ x ++ v : Byte)[7] = false ∧ (0b010#3 ++ x ++ v : Byte)[6] = true ∧
    (0b010#3 ++ x ++ v : Byte)[5] = false ∧ (0b010#3 ++ x ++ v : Byte)[4] = x[0] ∧
    lowNibble (0b010#3 ++ x ++ v) = v := by
  revert x v; decide

/-- The second byte of ADDQ, SUBQ and MULQ (R108). -/
@[simp] theorem fields_quick (v : BitVec 4) (x : BitVec 1) (r : RegNum) :
    highNibble (v ++ x ++ r) = v ∧ (v ++ x ++ r : Byte)[3] = x[0] ∧ lowReg (v ++ x ++ r) = r := by
  revert v x r; decide

/-! ### Which first bytes have a second byte -/

@[simp] theorem decode_cons_cons {b1 : Byte} (h : hasSecondByte b1 = true) (b2 : Byte) (rest : List Byte) :
    decode (b1 :: b2 :: rest) = decodeTwo b1 b2 rest := by
  have h8 : ¬ b1.toNat < 0x08 := fun hlt => by simp [hasSecondByte, hlt] at h
  simp [decode, h, h8]

@[simp] theorem hasSecondByte_opcode (op : BitVec 5) (r : RegNum) :
    hasSecondByte (op ++ r) = decide (op ≠ 0 ∧ op ≠ 9 ∧ op ≠ 10 ∧ op ≠ 11) := by
  revert op r; decide

@[simp] theorem hasSecondByte_wideOpcode (op : BitVec 3) (x y : BitVec 1) (r : RegNum) (h : 3 ≤ op) :
    hasSecondByte (op ++ x ++ y ++ r) = true := by
  revert op x y r; decide

/-! ### The opcodes that share a format -/

theorem decodeTwo_mem {op : BitVec 3} (h : op = 3 ∨ op = 4) (x y : BitVec 1) (r : RegNum) (b2 : Byte)
    (rest : List Byte) : decodeTwo (op ++ x ++ y ++ r) b2 rest = decodeMem (op == 4) (op ++ x ++ y ++ r) b2 rest := by
  rw [decodeTwo, (wideOpcode_fields ..).1]
  obtain rfl | rfl := h <;> obtain rfl | rfl := x.eq_zero_or_eq_one <;> obtain rfl | rfl := y.eq_zero_or_eq_one <;> rfl

theorem decodeTwo_const {op : BitVec 3} (h : op = 5 ∨ op = 6 ∨ op = 7) (x y : BitVec 1) (r : RegNum) (b2 : Byte)
    (rest : List Byte) : decodeTwo (op ++ x ++ y ++ r) b2 rest = decodeConst (op ++ x ++ y ++ r) b2 rest := by
  rw [decodeTwo, (wideOpcode_fields ..).1]
  obtain rfl | rfl | rfl := h <;> obtain rfl | rfl := x.eq_zero_or_eq_one <;>
    obtain rfl | rfl := y.eq_zero_or_eq_one <;> rfl

@[simp] theorem decodeIndex_encode (idx : Index) (rest : List Byte) :
    decodeIndex idx.encode.1[0] idx.encode.2.1[0] (idx.encode.2.2 ++ rest) = .ok (idx, rest) := by
  cases idx <;> simp [decodeIndex, Index.encode, Machine.high_append_low]

/-- The FX group under b1 = 0x38 (R107). -/
theorem decodeTestBit_fx :
    (∀ rd, decodeTestBit 0x38#8 (0b10000#5 ++ rd) = .ok (.sext rd)) ∧
    (∀ sz rd, decodeTestBit 0x38#8 (0b10#2 ++ sz.bit ++ 0b01#2 ++ rd) = .ok (.cmpl sz rd)) ∧
    (∀ sz rd, decodeTestBit 0x38#8 (0b10#2 ++ sz.bit ++ 0b10#2 ++ rd) = .ok (.jsr sz rd)) ∧
    (∀ num, decodeTestBit 0x38#8 (0b1101#4 ++ num) = .ok (.trap num)) := by
  refine ⟨by decide, ?_, ?_, by decide⟩
  · intro sz
    cases sz <;> decide
  · intro sz
    cases sz <;> decide

theorem decode_testBit (b2 : Byte) (rest : List Byte) :
    decode (0x38#8 :: b2 :: rest) = noMoreBytes rest (decodeTestBit 0x38#8 b2) := rfl

theorem decode_quick (b2 : Byte) (rest : List Byte) :
    decode (0x40#8 :: b2 :: rest) = .ok (.addq (Size.ofBit b2[3]) (lowReg b2) (highNibble b2), rest) ∧
    decode (0x41#8 :: b2 :: rest) = .ok (.subq (Size.ofBit b2[3]) (lowReg b2) (highNibble b2), rest) ∧
    decode (0x42#8 :: b2 :: rest) = .ok (.mulq (Size.ofBit b2[3]) (lowReg b2) (highNibble b2), rest) :=
  ⟨rfl, rfl, rfl⟩

theorem decode_libcall (x : BitVec 2) (v w : BitVec 4) (rest : List Byte) :
    decode ((0b010001#6 ++ x) :: (v ++ w) :: rest) = .ok (.libcall v (x ++ w), rest) := by
  have hx : x = 0 ∨ x = 1 ∨ x = 2 ∨ x = 3 := by revert x; decide
  have hread : decode ((0b010001#6 ++ x) :: (v ++ w) :: rest) =
      .ok (.libcall (highNibble (v ++ w)) (x ++ lowNibble (v ++ w)), rest) := by
    obtain rfl | rfl | rfl | rfl := hx <;> rfl
  simpa using hread

/-! ### The decoder reads every encoding back -/

theorem decode_encode (i : Instr) (rest : List Byte) : decode (encode i ++ rest) = .ok (i, rest) := by
  cases i with
  | nop | ret | reti | reset | sleep | libcallx => rfl
  | mov | xor | and | or => simp [encode, encodeLogic, decodeTwo, decodeLogic]
  | add | addc | sub | subb => simp [encode, encodeArith, decodeTwo, decodeArith, noMoreBytes]
  | test | swap => simp [encode, encodeArith, decodeTwo, decodeTestMul, noMoreBytes]
  | mul | div => simp [encode, encodeMul, decodeTwo, decodeTestMul, noMoreBytes]
  | shift | rot => simp [encode, encodeShift, decodeTwo, decodeShift]
  | shiftc | rotc => simp [encode, encodeShiftC, decodeTwo, decodeShiftC]
  | clrb | setb => simp [encode, encodeBit, decodeTwo, decodeBit]
  | clrbc | setbc => simp [encode, encodeBitC, decodeTwo, decodeBit]
  | testb | testbc => simp [encode, decodeTwo, decodeTestBit, noMoreBytes]
  | sext | cmpl | jsr | trap => simp [encode, decode_testBit, decodeTestBit_fx, noMoreBytes]
  | addq | subq | mulq => simp [encode, encodeQuick, decode_quick]
  | libcall imp fn =>
    have hfn : fn.extractLsb' 4 2 ++ fn.extractLsb' 0 4 = fn := by revert fn; decide
    simp [encode, decode_libcall, hfn]
  | load | store | ioctlIn | ioctlOut => simp [encode, encodeMem, decodeTwo_mem, decodeMem]
  | movc _ c | testc _ c | bcc _ _ c =>
    cases c <;> simp [encode, encodeConst, Imm.encode, decodeTwo_const, decodeConst, decodeImm, Machine.high_append_low]

/-! ### Lengths (R100) -/

theorem encode_length (i : Instr) : (encode i).length = i.length := by
  cases i with
  | load _ _ _ _ idx | store _ _ _ _ idx | ioctlIn _ _ _ _ idx | ioctlOut _ _ _ _ idx => cases idx <;> rfl
  | movc _ c | testc _ c | bcc _ _ c => cases c <;> rfl
  | _ => rfl

/-- The first two bytes say how long the instruction is. -/
def AnnouncesLength : List Byte → Prop
  | [] => False
  | [b1] => hasSecondByte b1 = false
  | b1 :: b2 :: more => hasSecondByte b1 = true ∧ extraBytes b1 b2 = more.length

/-- Two bytes under a five-bit opcode below the quick group are a whole instruction. -/
theorem announcesLength_pair {op : BitVec 5} (h : 1 ≤ op ∧ op ≤ 7) (r : RegNum) (b2 : Byte) :
    AnnouncesLength [op ++ r, b2] := by
  have hb1 : hasSecondByte (op ++ r) = true ∧ (op ++ r : Byte).toNat < 0x60 ∧ (op ++ r : Byte).toNat ≠ 0x43 := by
    revert op r; decide
  obtain ⟨hsecond, hlt, hne⟩ := hb1
  exact ⟨hsecond, by simp [extraBytes, hlt, hne]⟩

theorem extraBytes_mem {op : BitVec 3} (h : op = 3 ∨ op = 4) (x y : BitVec 1) (r : RegNum) (b2 : Byte) :
    extraBytes (op ++ x ++ y ++ r) b2 = if x[0] then (if b2[7] then 2 else 1) else 0 := by
  have hb1 : ¬ (op ++ x ++ y ++ r : Byte).toNat < 0x60 ∧ (op ++ x ++ y ++ r : Byte).toNat < 0xA0 ∧
      (op ++ x ++ y ++ r : Byte).toNat ≠ 0x43 := by
    revert op x y r; decide
  obtain ⟨hge, hlt, hne⟩ := hb1
  simp [extraBytes, hge, hlt, hne]

theorem extraBytes_const {op : BitVec 3} (h : 5 ≤ op) (x y : BitVec 1) (r : RegNum) (b2 : Byte) :
    extraBytes (op ++ x ++ y ++ r) b2 = if y[0] then 1 else 0 := by
  have hb1 : ¬ (op ++ x ++ y ++ r : Byte).toNat < 0xA0 := by
    revert op x y r; decide
  simp [extraBytes, hb1, show ¬ (op ++ x ++ y ++ r : Byte).toNat < 0x60 by omega,
    show (op ++ x ++ y ++ r : Byte).toNat ≠ 0x43 by omega]

theorem announcesLength_mem {op : BitVec 3} (h : op = 3 ∨ op = 4) (dir : BitVec 1) (sz : Size) (d : Operand)
    (db : Size) (base : Operand) (idx : Index) : AnnouncesLength (encodeMem op dir sz d db base idx) := by
  refine ⟨hasSecondByte_wideOpcode _ _ _ _ (by revert op; decide), ?_⟩
  rw [extraBytes_mem h]
  cases idx <;> simp [Index.encode]

theorem announcesLength_const {op : BitVec 3} (h : 5 ≤ op) (x : BitVec 1) (num : BitVec 3) (c : Imm) :
    AnnouncesLength (encodeConst op x num c) := by
  have hsecond (y : BitVec 1) : hasSecondByte (op ++ x ++ y ++ num) = true :=
    hasSecondByte_wideOpcode _ _ _ _ (by revert op; decide)
  cases c with
  | short v => exact ⟨hsecond _, (extraBytes_const h ..).trans (by simp [Imm.encode])⟩
  | long v => exact ⟨hsecond _, (extraBytes_const h ..).trans (by simp [Imm.encode])⟩

theorem encode_announcesLength (i : Instr) : AnnouncesLength (encode i) := by
  cases i with
  | nop | ret | reti => rfl
  | mov | xor | and | or | add | addc | sub | subb | test | swap | mul | div | shift | rot | shiftc | rotc
  | clrb | clrbc | setb | setbc | testb | testbc => exact announcesLength_pair (by decide) ..
  | sext | cmpl | jsr | reset | sleep | trap | addq | subq | mulq | libcallx => exact ⟨rfl, rfl⟩
  | libcall imp fn =>
    have hb1 : ∀ x : BitVec 2, hasSecondByte (0b010001#6 ++ x) = true ∧ (0b010001#6 ++ x : Byte).toNat < 0x60 ∧
      (0b010001#6 ++ x : Byte).toNat ≠ 0x43 := by decide
    obtain ⟨hsecond, hlt, hne⟩ := hb1 (fn.extractLsb' 4 2)
    exact ⟨hsecond, by simp [extraBytes, hlt, hne]⟩
  | load | store | ioctlIn | ioctlOut => exact announcesLength_mem (by decide) ..
  | movc | testc | bcc => exact announcesLength_const (by decide) ..

end Sys2Proof

namespace Sys2Proof.Machine

/-! ### The fetch takes one whole instruction -/

theorem State.fetchMany_cons_ok {s : State} {p : Word} {n : Nat} {b : Byte} {rest : List Byte} :
    s.fetchMany p (n + 1) = .ok (b :: rest) ↔ s.fetch p = .ok b ∧ s.fetchMany (p + 1) n = .ok rest := by
  simp [State.fetchMany, try_bind_ok]

/-- Bytes that say their own length are what the fetch takes (R62, R100). -/
theorem State.fetchInstr_of_fetchMany {s : State} {bytes : List Byte} (hb : AnnouncesLength bytes)
    (hf : s.fetchMany s.pc bytes.length = .ok bytes) : s.fetchInstr = .ok bytes := by
  match bytes, hb with
  | [b1], hsecond =>
    obtain ⟨hb1, -⟩ := State.fetchMany_cons_ok.mp hf
    have hsecond : hasSecondByte b1 = false := hsecond
    simp [State.fetchInstr, hb1, hsecond]
  | b1 :: b2 :: more, ⟨hsecond, hextra⟩ =>
    obtain ⟨hb1, hf⟩ := State.fetchMany_cons_ok.mp hf
    obtain ⟨hb2, hmore⟩ := State.fetchMany_cons_ok.mp hf
    have hpc : s.pc + 1 + 1 = s.pc + 2 := by rw [BitVec.add_assoc]; rfl
    simp only [State.fetchInstr, hb1, hb2, try_ok_bind, hsecond, if_true, hextra, ← hpc, hmore]

/-- Settles O8: the encoding says its own length, so the fetch takes it whole, and the decoder reads it back. -/
theorem stepRunsEncoded : Obligations.StepRunsEncoded := by
  intro s i hreset hready hrun hcode
  rw [← encode_length, ← State.arrive_pc] at hcode
  have hfetch := State.fetchInstr_of_fetchMany (encode_announcesLength i) hcode
  have hdecode : decode (encode i) = .ok (i, []) := by simpa using decode_encode i []
  exact ⟨hfetch, (step_eq_runInstr hreset hready hrun).trans (State.runInstr_decoded hfetch hdecode)⟩

end Sys2Proof.Machine

/-! PROOFS. What an instruction can do to the machine, said once as an inversion of `exec`, and from it the invariant
of the machine, the ways CM and LINK change, the values at reset and the two stack pointers (10_state.md). -/

namespace Sys2Proof.Machine

/-! ### The stored part of the invariant

The invariant is three facts about what is stored (both memories and PENDING), and two that tie LINK and the mode to
what the machine is doing. -/

/-- Both memories are canonical and inside their spaces, and PENDING is a set of interrupt numbers below NIRQ. -/
structure State.StoreWf (s : State) : Prop where
  data : Memory.wf .data s.data = true
  below : Memory.below s.platform.dataSize s.data = true
  code : Memory.wf .code s.code = true
  pending : risingBelow 0 s.platform.nirq s.pending = true

theorem State.inv_iff {s : State} :
    s.Inv ↔ s.StoreWf ∧ s.linkOk = true ∧ (s.run = .vmSleep → s.ps.m = true) :=
  ⟨fun ⟨hdata, hbelow, hcode, hpending, hlink, hmode⟩ => ⟨⟨hdata, hbelow, hcode, hpending⟩, hlink, hmode⟩,
    fun ⟨⟨hdata, hbelow, hcode, hpending⟩, hlink, hmode⟩ => ⟨hdata, hbelow, hcode, hpending, hlink, hmode⟩⟩

theorem State.Inv.storeWf {s : State} (hs : s.Inv) : s.StoreWf := (State.inv_iff.mp hs).1

theorem State.Inv.linkChain {s : State} (hs : s.Inv) (hrun : s.run = .running ∨ s.run = .asleep) :
    linkChain s.link = true := by
  obtain ⟨-, hlink, -⟩ := State.inv_iff.mp hs
  obtain hrun | hrun := hrun <;> simpa [State.linkOk, hrun] using hlink

theorem State.Inv.link_nil {s : State} (hs : s.Inv) (hrun : s.run = .vmSleep) : s.link = [] := by
  obtain ⟨-, hlink, -⟩ := State.inv_iff.mp hs
  simpa [State.linkOk, hrun] using hlink

/-- A machine that executes a module, or sleeps in one, needs a chain on LINK. -/
theorem State.StoreWf.inv_of_linkChain {t : State} (ht : t.StoreWf) (hrun : t.run = .running ∨ t.run = .asleep)
    (hlink : linkChain t.link = true) : t.Inv := by
  obtain hrun | hrun := hrun <;> exact State.inv_iff.mpr ⟨ht, by simp [State.linkOk, hrun, hlink], by simp [hrun]⟩

theorem State.StoreWf.inv_of_halted {t : State} (ht : t.StoreWf) (hrun : t.run = .halted) (hlink : t.link = []) :
    t.Inv :=
  State.inv_iff.mpr ⟨ht, by simp [State.linkOk, hrun, hlink], by simp [hrun]⟩

theorem State.StoreWf.inv_of_vmSleep {t : State} (ht : t.StoreWf) (hrun : t.run = .vmSleep) (hlink : t.link = [])
    (hmode : t.ps.m = true) : t.Inv :=
  State.inv_iff.mpr ⟨ht, by simp [State.linkOk, hrun, hlink], fun _ => hmode⟩

/-! ### Chains on LINK (R41) -/

@[simp] theorem linkChain_singleton (r : LinkRec) :
    linkChain [r] = true ↔ r.kind ≠ .lib ∧ r.cm = none := by
  simp [linkChain]

theorem linkChain_cons_cons (r x : LinkRec) (rest : List LinkRec) :
    linkChain (r :: x :: rest) = true ↔ r.kind = .lib ∧ r.cm.isSome = true ∧ linkChain (x :: rest) = true := by
  simp [linkChain, and_assoc]

/-- A call puts its `lib` record on any chain. -/
theorem linkChain_cons_lib {l : List LinkRec} (m : Byte) (k : StackId) (sp : Word) (hl : linkChain l = true) :
    linkChain (⟨.lib, some m, k, sp⟩ :: l) = true := by
  cases l with
  | nil => cases hl
  | cons x rest => exact (linkChain_cons_cons ..).mpr ⟨rfl, rfl, hl⟩

/-- Under a `lib` record stands a chain. -/
theorem linkChain_tail_of_lib {r : LinkRec} {l : List LinkRec} (hl : linkChain (r :: l) = true) (hr : r.kind = .lib) :
    linkChain l = true := by
  cases l with
  | nil => exact absurd hr ((linkChain_singleton r).mp hl).1
  | cons x rest =>
    obtain ⟨-, -, hrest⟩ := (linkChain_cons_cons ..).mp hl
    exact hrest

/-- A `vm` or `idle` record is the last of its chain. -/
theorem linkChain_tail_of_not_lib {r : LinkRec} {l : List LinkRec} (hl : linkChain (r :: l) = true)
    (hr : r.kind ≠ .lib) : l = [] := by
  cases l with
  | nil => rfl
  | cons x rest => exact absurd ((linkChain_cons_cons ..).mp hl).1 hr

/-! ### What no operand reaches

An instruction works on the registers, PS, data space and the IO record. Everything else of the machine is the VM's. -/

/-- `t` differs from `s` in registers, PS, the IO record and data space at most, and what is stored stays in its form. -/
structure KeepsVm (s t : State) : Prop where
  cm : t.cm = s.cm
  link : t.link = s.link
  pending : t.pending = s.pending
  run : t.run = s.run
  vmPhase : t.vmPhase = s.vmPhase
  code : t.code = s.code
  mods : t.mods = s.mods
  platform : t.platform = s.platform
  inputs : t.inputs = s.inputs
  boots : t.boots = s.boots
  storeWf : s.StoreWf → t.StoreWf

namespace KeepsVm

variable {s t u : State}

theorem refl (s : State) : KeepsVm s s := ⟨rfl, rfl, rfl, rfl, rfl, rfl, rfl, rfl, rfl, rfl, id⟩

theorem trans (h : KeepsVm s t) (h' : KeepsVm t u) : KeepsVm s u where
  cm := h'.cm.trans h.cm
  link := h'.link.trans h.link
  pending := h'.pending.trans h.pending
  run := h'.run.trans h.run
  vmPhase := h'.vmPhase.trans h.vmPhase
  code := h'.code.trans h.code
  mods := h'.mods.trans h.mods
  platform := h'.platform.trans h.platform
  inputs := h'.inputs.trans h.inputs
  boots := h'.boots.trans h.boots
  storeWf := h'.storeWf ∘ h.storeWf

/-- Registers, PS and the IO record may take any values. -/
theorem of_registers (h : KeepsVm s t) (hu : u = { t with
      regs := u.regs, pc := u.pc, ssp := u.ssp, usp := u.usp
      fp := u.fp, flags := u.flags, ps := u.ps, ioLog := u.ioLog }) : KeepsVm s u := by
  rw [hu]
  exact ⟨h.cm, h.link, h.pending, h.run, h.vmPhase, h.code, h.mods, h.platform, h.inputs, h.boots,
    fun hs => ⟨(h.storeWf hs).data, (h.storeWf hs).below, (h.storeWf hs).code, (h.storeWf hs).pending⟩⟩

theorem setPc (h : KeepsVm s t) (v : Word) : KeepsVm s (t.setPc v) := h.of_registers rfl

theorem setFlags (h : KeepsVm s t) (v : Flags) : KeepsVm s (t.setFlags v) := h.of_registers rfl

theorem setPs (h : KeepsVm s t) (v : Status) : KeepsVm s (t.setPs v) := h.of_registers rfl

theorem setReg (h : KeepsVm s t) (n : RegNum) (v : Byte) : KeepsVm s (t.setReg n v) := h.of_registers rfl

theorem setPair (h : KeepsVm s t) (n : RegNum) (v : Word) : KeepsVm s (t.setPair n v) := h.of_registers rfl

theorem setGp (h : KeepsVm s t) (n : RegNum) (sz : Size) (v : BitVec sz.bits) : KeepsVm s (t.setGp n sz v) :=
  h.of_registers (by rw [State.setGp_eq])

theorem setSp (h : KeepsVm s t) (k : StackId) (v : Word) : KeepsVm s (t.setSp k v) :=
  h.of_registers (by rw [State.setSp_eq])

theorem writeOperand (h : KeepsVm s t) (next : Word) (sz : Size) (v : BitVec sz.bits) (o : Operand) :
    KeepsVm s (t.writeOperand next sz v o) :=
  h.of_registers (by rw [State.writeOperand_frame])

theorem setZNUnlessAs (h : KeepsVm s t) (d : Operand) {w : Nat} (r : BitVec w) : KeepsVm s (t.setZNUnlessAs d r) := by
  unfold State.setZNUnlessAs
  split
  · exact h
  · exact h.setFlags _

theorem putResult (h : KeepsVm s t) (sz : Size) (rd : RegNum) (len : Nat) (p : BitVec sz.bits × Flags) :
    KeepsVm s (t.putResult sz rd len p) :=
  ((h.setPc _).setGp _ _ _).setFlags _

theorem shiftBy (h : KeepsVm s t) (op : ShiftOp) (y : Bool) (sd : Size) (dir : Direction) (rd : RegNum) (n : Nat) :
    KeepsVm s (t.shiftBy op y sd dir rd n) :=
  ((h.setPc _).setGp _ _ _).setFlags _

theorem ioReadByte (h : KeepsVm s t) (port : Nat) : KeepsVm s (t.ioReadByte port).2 :=
  h.of_registers (by rw [State.ioReadByte_frame])

theorem ioWriteByte (h : KeepsVm s t) (port : Nat) (v : Byte) : KeepsVm s (t.ioWriteByte port v) :=
  h.of_registers (by rw [State.ioWriteByte_frame])

theorem memWrite {sp : Space} {a : Nat} {sz : Size} {v : BitVec sz.bits} (h : s.memWrite sp a sz v = .ok t) :
    KeepsVm s t := by
  have hstore : s.StoreWf → t.StoreWf := fun hs => by
    obtain ⟨hdata, hbelow⟩ := State.memWrite_wf h hs.data hs.below
    rw [State.memWrite_frame h]
    exact ⟨hdata, hbelow, hs.code, hs.pending⟩
  rw [State.memWrite_frame h] at hstore ⊢
  exact ⟨rfl, rfl, rfl, rfl, rfl, rfl, rfl, rfl, rfl, rfl, hstore⟩

theorem push {sz : Size} {v : BitVec sz.bits} (h : s.push sz v = .ok t) : KeepsVm s t := by
  obtain ⟨-, u, hu, rfl⟩ := State.push_ok.mp h
  exact (memWrite hu).setSp _ _

theorem pop {sz : Size} {v : BitVec sz.bits} (h : s.pop sz = .ok (v, t)) : KeepsVm s t := by
  obtain ⟨-, -, rfl⟩ := State.pop_ok.mp h
  exact (refl s).setSp _ _

theorem pushFrame {kind : EventKind} {retpc : Word} (h : s.pushFrame kind retpc = .ok t) : KeepsVm s t := by
  obtain ⟨a, b, ha, hb, ht⟩ := State.pushFrame_ok.mp h
  exact ((((refl s).setPs _).trans (push ha)).trans (push hb)).trans (push ht)

end KeepsVm

/-! ### Operations whose results keep the VM's part -/

/-- Every value the operation ends with has the property. -/
def Yields {α : Type} (P : α → Prop) (x : Try α) : Prop := ∀ a, x = .ok a → P a

section

variable {α β : Type} {P : α → Prop} {Q : β → Prop}

theorem yields_ok {a : α} (ha : P a) : Yields P (.ok a) := by
  rintro _ ⟨⟩
  exact ha

theorem yields_bind {x : Try α} {g : α → Try β} (hx : Yields P x) (hg : ∀ a, P a → Yields Q (g a)) :
    Yields Q (x >>= g) := by
  intro b h
  obtain ⟨a, ha, hb⟩ := try_bind_ok.mp h
  exact hg a (hx a ha) b hb

/-- What comes after a check, or after an operation whose value does not matter. -/
theorem yields_after {x : Try α} {g : α → Try β} (hg : ∀ a, Yields Q (g a)) : Yields Q (x >>= g) :=
  yields_bind (P := fun _ => True) (fun _ _ => trivial) fun a _ => hg a

theorem yields_ite {c : Prop} [Decidable c] {x y : Try α} (hx : Yields P x) (hy : Yields P y) :
    Yields P (if c then x else y) := by
  split
  · exact hx
  · exact hy

end

theorem State.memWrite_yields (s : State) (sp : Space) (a : Nat) (sz : Size) (v : BitVec sz.bits) :
    Yields (KeepsVm s) (s.memWrite sp a sz v) := fun _ => KeepsVm.memWrite

theorem State.push_yields (s : State) (sz : Size) (v : BitVec sz.bits) : Yields (KeepsVm s) (s.push sz v) :=
  fun _ => KeepsVm.push

theorem State.pop_yields (s : State) (sz : Size) : Yields (fun p => KeepsVm s p.2) (s.pop sz) :=
  fun _ => KeepsVm.pop

theorem State.ioRead_yields (s : State) (port : Nat) : (sz : Size) → Yields (fun p => KeepsVm s p.2) (s.ioRead port sz)
  | .byte => yields_after fun _ => yields_ok ((KeepsVm.refl s).ioReadByte _)
  | .word => yields_after fun _ => yields_after fun _ => yields_ok (((KeepsVm.refl s).ioReadByte _).ioReadByte _)

theorem State.ioWrite_yields (s : State) (port : Nat) :
    (sz : Size) → (v : BitVec sz.bits) → Yields (KeepsVm s) (s.ioWrite port sz v)
  | .byte, _ => yields_after fun _ => yields_ok ((KeepsVm.refl s).ioWriteByte _ _)
  | .word, _ => yields_after fun _ => yields_after fun _ =>
    yields_ok (((KeepsVm.refl s).ioWriteByte _ _).ioWriteByte _ _)

theorem State.changeBit_yields (s : State) (value : Bool) (sd : Size) (d : Operand) (i : Nat) :
    Yields (KeepsVm s) (s.changeBit value sd d i) :=
  yields_after fun _ =>
    yields_ite (yields_ok ((KeepsVm.refl s).writeOperand _ _ _ _)) (yields_ok ((KeepsVm.refl s).setPc _))

theorem State.testBit_yields (s : State) (sd : Size) (d : Operand) (i : Nat) :
    Yields (KeepsVm s) (s.testBit sd d i) :=
  yields_after fun _ => yields_ok (((KeepsVm.refl s).setPc _).setFlags _)

/-! ### What an instruction can do -/

/-- The ways an instruction that starts in `s` can end in `t`. -/
inductive InstrEnd (i : Instr) (s t : State) : Prop
  /-- It works on registers, PS, data space and IO alone. -/
  | ordinary (hi : i.switchesModule = false) (h : KeepsVm s t)
  | slept (hi : i = .sleep) (h : t = (s.setPc (s.nextPc 2)).setRun .asleep)
  | rebooted (hi : i = .reset) (h : t = s.reboot)
  /-- An exception or a trap (60_exceptions.md R266). -/
  | event (k : Nat) (retpc : Word) (h : s.enter .faultOrTrap k retpc = .next t)
  | called (imp fn : Nat) (next : Word) (hi : i.switchesModule = true) (h : s.callModule imp fn next = .ok t)
  | returned (hi : i = .ret) (h : s.returnFromSub = .ok t)
  | returnedFromException (hi : i = .reti) (h : s.returnFromException = .ok t)

/-- An abandoned instruction ends in its exception, any other as its operation does. -/
theorem InstrEnd.of_finish {i : Instr} {s t : State} {r : Try State} (h : s.finish r = .next t)
    (hr : r = .ok t → InstrEnd i s t) : InstrEnd i s t := by
  obtain hok | ⟨e, -, he⟩ := State.finish_next h
  · exact hr hok
  · exact .event e.num s.pc he

theorem InstrEnd.of_finish_yields {i : Instr} {s t : State} {r : Try State} (h : s.finish r = .next t)
    (hi : i.switchesModule = false) (hr : Yields (KeepsVm s) r) : InstrEnd i s t :=
  .of_finish h fun hok => .ordinary hi (hr t hok)

theorem InstrEnd.of_next {i : Instr} {s t u : State} (h : (.next u : Result) = .next t)
    (hi : i.switchesModule = false) (hu : KeepsVm s u) : InstrEnd i s t := by
  injection h with h
  exact .ordinary hi (h ▸ hu)

/-- The inversion of `exec`: one case per instruction, its operation's result followed to the end. -/
theorem exec_end {i : Instr} {s t : State} (h : exec i s = .next t) : InstrEnd i s t := by
  have hs := KeepsVm.refl s
  cases i with
  | nop => exact .of_next h rfl (hs.setPc _)
  | add | addc | sub | subb | addq | subq | cmpl | mulq => exact .of_next h rfl (hs.putResult _ _ _ _)
  | test => exact .of_next h rfl ((hs.setPc _).setFlags _)
  | shift | rot | shiftc | rotc => exact .of_next h rfl (hs.shiftBy _ _ _ _ _ _)
  | sext => exact .of_next h rfl ((hs.setPc _).setReg _ _)
  | swap sz rd rs =>
    cases sz with
    | byte => exact .of_next h rfl ((hs.setPc _).setReg _ _)
    | word => exact .of_next h rfl (((hs.setPc _).setPair _ _).setPair _ _)
  | mov | movc => exact .of_finish_yields h rfl (yields_after fun _ => yields_ok (hs.writeOperand _ _ _ _))
  | xor | and | or =>
    exact .of_finish_yields h rfl (yields_after fun _ => yields_ok ((hs.writeOperand _ _ _ _).setZNUnlessAs _ _))
  | testc => exact .of_finish_yields h rfl (yields_after fun _ => yields_ok ((hs.setPc _).setFlags _))
  | mul =>
    exact .of_finish_yields h rfl (yields_after fun _ =>
      yields_ite (yields_ok (hs.putResult _ _ _ _)) (yields_ok (hs.putResult _ _ _ _)))
  | div =>
    exact .of_finish_yields h rfl (yields_after fun _ => yields_after fun _ =>
      yields_ite (yields_ok ((((hs.setPc _).setReg _ _).setReg _ _).setFlags _)) (yields_ok (hs.putResult _ _ _ _)))
  | clrb | clrbc | setb | setbc => exact .of_finish_yields h rfl (s.changeBit_yields _ _ _ _)
  | testb | testbc => exact .of_finish_yields h rfl (s.testBit_yields _ _ _)
  | load =>
    exact .of_finish_yields h rfl (yields_after fun _ => yields_after fun _ =>
      yields_ite (yields_bind (s.pop_yields _) fun _ hp => yields_ok (hp.writeOperand _ _ _ _))
        (yields_after fun _ => yields_ok (hs.writeOperand _ _ _ _)))
  | store =>
    exact .of_finish_yields h rfl (yields_after fun _ => yields_after fun _ =>
      yields_ite (yields_bind (s.push_yields _ _) fun _ hp => yields_ok (hp.setPc _))
        (yields_bind (s.memWrite_yields _ _ _ _) fun _ hw => yields_ok (hw.setPc _)))
  | ioctlIn =>
    exact .of_finish_yields h rfl (yields_after fun _ => yields_after fun _ => yields_after fun _ =>
      yields_bind (s.ioRead_yields _ _) fun _ hp => yields_ok (hp.writeOperand _ _ _ _))
  | ioctlOut =>
    exact .of_finish_yields h rfl (yields_after fun _ => yields_after fun _ => yields_after fun _ =>
      yields_bind (s.ioWrite_yields _ _ _) fun _ hw => yields_ok (hw.setPc _))
  | bcc =>
    exact .of_finish_yields h rfl (yields_after fun _ =>
      yields_ite
        (yields_ite (yields_bind (s.push_yields _ _) fun _ hp => yields_ok (hp.setPc _)) (yields_ok (hs.setPc _)))
        (yields_ok (hs.setPc _)))
  | jsr =>
    exact .of_finish_yields h rfl (yields_bind (s.push_yields _ _) fun _ hp => yields_ok (hp.setPc _))
  | sleep => exact .slept rfl (Host.Outcome.next.inj h).symm
  | reset => exact .rebooted rfl (Host.Outcome.next.inj h).symm
  | trap num => exact .event _ _ h
  | libcall | libcallx => exact .of_finish h fun hok => .called _ _ _ rfl hok
  | ret => exact .of_finish h fun hok => .returned rfl hok
  | reti => exact .of_finish h fun hok => .returnedFromException rfl hok


/-! ### The invariant through the VM's own operations

Each lemma takes what is stored as well formed and says which state the operation leaves LINK and the mode in. -/

namespace State.StoreWf

variable {s t : State}

theorem setPc (hs : s.StoreWf) (v : Word) : (s.setPc v).StoreWf := ⟨hs.data, hs.below, hs.code, hs.pending⟩

theorem setPs (hs : s.StoreWf) (v : Status) : (s.setPs v).StoreWf := ⟨hs.data, hs.below, hs.code, hs.pending⟩

theorem setCm (hs : s.StoreWf) (v : Byte) : (s.setCm v).StoreWf := ⟨hs.data, hs.below, hs.code, hs.pending⟩

theorem setLink (hs : s.StoreWf) (v : List LinkRec) : (s.setLink v).StoreWf :=
  ⟨hs.data, hs.below, hs.code, hs.pending⟩

theorem setRun (hs : s.StoreWf) (v : RunState) : (s.setRun v).StoreWf := ⟨hs.data, hs.below, hs.code, hs.pending⟩

theorem setVmPhase (hs : s.StoreWf) (v : VmPhase) : (s.setVmPhase v).StoreWf :=
  ⟨hs.data, hs.below, hs.code, hs.pending⟩

theorem enterVmSleep (hs : s.StoreWf) : s.enterVmSleep.StoreWf := (hs.setPs _).setRun _

/-- A module started on an empty LINK has its `vm` record as the chain (R301). -/
theorem startModule_inv (hs : s.StoreWf) (m : Byte) (supervisor : Bool) (phase : VmPhase) (hlink : s.link = []) :
    (s.startModule m supervisor phase).Inv := by
  have hstore : (s.startModule m supervisor phase).StoreWf :=
    (((((hs.setPs _).setCm m).setPc 0).setLink _).setRun .running).setVmPhase phase
  refine hstore.inv_of_linkChain ?_ ?_
  · rw [State.startModule_eq]; exact .inl rfl
  · rw [State.startModule_eq, hlink]; rfl

theorem enterVmSleep_inv (hs : s.StoreWf) (hlink : s.link = []) : s.enterVmSleep.Inv :=
  hs.enterVmSleep.inv_of_vmSleep rfl hlink rfl

/-- A reboot drops data space and PENDING, and its LINK is empty or one `vm` record (R300). -/
theorem reboot_inv (hs : s.StoreWf) : s.reboot.Inv := by
  have hboot : s.bootClear.StoreWf := ⟨Memory.wf_nil .data, Memory.below_nil _, hs.code, rfl⟩
  obtain h | ⟨m, p, h⟩ := s.reboot_cases
  · rw [h]
    exact hboot.inv_of_halted rfl rfl
  · rw [h]
    exact hboot.startModule_inv m true p rfl

/-- A module returns to the VM with nothing left on LINK (R302). -/
theorem returnToVm_inv (hs : s.StoreWf) (hlink : s.link = []) : s.returnToVm.Inv := by
  obtain h | h | ⟨a, h⟩ := s.returnToVm_cases
  · rw [h]
    exact hs.enterVmSleep_inv hlink
  · rw [h]
    exact (hs.setRun .halted).inv_of_halted rfl hlink
  · rw [h]
    exact hs.startModule_inv a false .application hlink

/-- An event is entered from a chain, or in the VM's sleep state from an empty LINK, where the `idle` record begins one
(R266, R302(c)). -/
theorem enter_inv {kind : EventKind} {k : Nat} {retpc : Word} (hs : s.StoreWf) (hrun : s.run = .running)
    (h : s.enter kind k retpc = .next t) (hidle : kind = .idleInterrupt → s.link = [])
    (hchain : kind ≠ .idleInterrupt → linkChain s.link = true) : t.Inv := by
  obtain rfl | ⟨m, off, u, -, hu, rfl⟩ := State.enter_next h
  · exact hs.reboot_inv
  · have hkeep := KeepsVm.pushFrame hu
    have hu' := hkeep.storeWf hs
    have hrun' : u.run = .running := hkeep.run.trans hrun
    unfold State.linkOnEntry
    split
    next hkind =>
      have hnil : u.link = [] := hkeep.link.trans (hidle hkind)
      exact (((hu'.setLink _).setCm m).setPc off).inv_of_linkChain (.inl hrun') (by simp [hnil])
    next hkind =>
      exact ((hu'.setCm m).setPc off).inv_of_linkChain (.inl hrun') (hkeep.link ▸ hchain hkind)

end State.StoreWf

/-! ### The invariant through calls and returns -/

section

variable {s t : State}

theorem State.callModule_inv {imp fn : Nat} {next : Word} (hs : s.StoreWf) (hrun : s.run = .running)
    (hlink : linkChain s.link = true) (h : s.callModule imp fn next = .ok t) : t.Inv := by
  obtain ⟨m, off, u, -, hu, rfl⟩ := State.callModule_ok.mp h
  have hkeep := KeepsVm.push hu
  exact ((((hkeep.storeWf hs).setLink _).setCm m).setPc off).inv_of_linkChain (.inl (hkeep.run.trans hrun))
    (linkChain_cons_lib _ _ _ (hkeep.link ▸ hlink))

/-- The ways a RET ends: to the VM by a `vm` record, to the calling module by a `lib` record, or inside the module
(45_control.md R234). -/
theorem State.returnFromSub_ok (h : s.returnFromSub = .ok t) :
    (∃ r rest, s.link = r :: rest ∧ r.kind = .vm ∧ t = (s.setLink rest).returnToVm) ∨
    (∃ r rest v u, s.link = r :: rest ∧ r.kind = .lib ∧ s.pop .word = .ok (v, u) ∧
      t = ((u.setLink rest).setCm (r.cm.getD s.cm)).setPc v) ∨
    ∃ v u, s.pop .word = .ok (v, u) ∧ t = u.setPc v := by
  unfold State.returnFromSub at h
  split at h
  next hmatch =>
    obtain ⟨hlink, -⟩ := State.matchingLink_some.mp hmatch
    exact .inl ⟨_, _, hlink, rfl, (Except.ok.inj h).symm⟩
  next kind cm k sp hvm hmatch =>
    obtain ⟨hlink, -, -, hidle⟩ := State.matchingLink_some.mp hmatch
    obtain ⟨⟨v, u⟩, hp, hu⟩ := try_bind_ok.mp h
    have hlib : kind = .lib := by
      cases kind with
      | lib => rfl
      | vm => exact (hvm rfl).elim
      | idle => exact absurd rfl hidle
    exact .inr (.inl ⟨_, _, v, u, hlink, hlib, hp, (Except.ok.inj hu).symm⟩)
  next =>
    obtain ⟨⟨v, u⟩, hp, hu⟩ := try_bind_ok.mp h
    exact .inr (.inr ⟨v, u, hp, (Except.ok.inj hu).symm⟩)

theorem State.returnFromSub_inv (hs : s.StoreWf) (hrun : s.run = .running) (hlink : linkChain s.link = true)
    (h : s.returnFromSub = .ok t) : t.Inv := by
  obtain ⟨r, rest, hr, hkind, rfl⟩ | ⟨r, rest, v, u, hr, hkind, hp, rfl⟩ | ⟨v, u, hp, rfl⟩ := State.returnFromSub_ok h
  · have hrest : rest = [] := linkChain_tail_of_not_lib (hr ▸ hlink) (by simp [hkind])
    exact (hs.setLink rest).returnToVm_inv hrest
  · have hkeep := KeepsVm.pop hp
    exact ((((hkeep.storeWf hs).setLink rest).setCm _).setPc v).inv_of_linkChain (.inl (hkeep.run.trans hrun))
      (linkChain_tail_of_lib (hr ▸ hlink) hkind)
  · have hkeep := (KeepsVm.pop hp).setPc v
    exact (hkeep.storeWf hs).inv_of_linkChain (.inl (hkeep.run.trans hrun)) (hkeep.link ▸ hlink)

theorem State.idleReturn_link (h : s.idleReturn = true) : ∃ r rest, s.link = r :: rest ∧ r.kind = .idle := by
  unfold State.idleReturn at h
  split at h
  · cases h
  next r rest hr =>
    simp only [Bool.and_eq_true, decide_eq_true_eq] at h
    exact ⟨r, rest, hr, h.1⟩

/-- The ways a RETI ends: in the VM's sleep state by an `idle` record, or where the frame says (46_system.md R250). -/
theorem State.returnFromException_ok (h : s.returnFromException = .ok t) :
    ∃ u, KeepsVm s u ∧
      ((∃ r rest, s.link = r :: rest ∧ r.kind = .idle ∧ t = (u.setLink rest).enterVmSleep) ∨
       ∃ m v, t = (u.setCm m).setPc v) := by
  obtain ⟨-, -, h⟩ := try_bind_ok.mp h
  obtain ⟨-, -, h⟩ := try_bind_ok.mp h
  obtain ⟨⟨ps, a⟩, ha, h⟩ := try_bind_ok.mp h
  obtain ⟨⟨cm, b⟩, hb, h⟩ := try_bind_ok.mp h
  obtain ⟨⟨ra, c⟩, hc, h⟩ := try_bind_ok.mp h
  have hkeep := (((KeepsVm.pop ha).trans (KeepsVm.pop hb)).trans (KeepsVm.pop hc)).setPs (Status.ofByte ps)
  refine ⟨_, hkeep, ?_⟩
  dsimp only at h
  split at h
  next hidle =>
    obtain ⟨r, rest, hr, hkind⟩ := State.idleReturn_link hidle
    rw [hr] at h
    exact .inl ⟨r, rest, hr, hkind, (Except.ok.inj h).symm⟩
  next => exact .inr ⟨_, _, (Except.ok.inj h).symm⟩

theorem State.returnFromException_inv (hs : s.StoreWf) (hrun : s.run = .running) (hlink : linkChain s.link = true)
    (h : s.returnFromException = .ok t) : t.Inv := by
  obtain ⟨u, hkeep, ⟨r, rest, hr, hkind, rfl⟩ | ⟨m, v, rfl⟩⟩ := State.returnFromException_ok h
  · have hrest : rest = [] := linkChain_tail_of_not_lib (hr ▸ hlink) (by simp [hkind])
    exact ((hkeep.storeWf hs).setLink rest).enterVmSleep_inv hrest
  · exact (((hkeep.storeWf hs).setCm m).setPc v).inv_of_linkChain (.inl (hkeep.run.trans hrun)) (hkeep.link ▸ hlink)

/-! ### The invariant through one step -/

theorem State.raise_inv {e : Exc} (hs : s.Inv) (hrun : s.run = .running) (h : s.raise e = .next t) : t.Inv :=
  hs.storeWf.enter_inv hrun h nofun fun _ => hs.linkChain (.inl hrun)

theorem exec_inv {i : Instr} (hs : s.Inv) (hrun : s.run = .running) (h : exec i s = .next t) : t.Inv := by
  have hstore := hs.storeWf
  have hlink := hs.linkChain (.inl hrun)
  cases exec_end h with
  | ordinary _ hkeep => exact (hkeep.storeWf hstore).inv_of_linkChain (.inl (hkeep.run.trans hrun)) (hkeep.link ▸ hlink)
  | slept _ ht =>
    subst ht
    exact ((hstore.setPc _).setRun .asleep).inv_of_linkChain (.inr rfl) hlink
  | rebooted _ ht => exact ht ▸ hstore.reboot_inv
  | event _ _ h => exact hstore.enter_inv hrun h nofun fun _ => hlink
  | called _ _ _ _ h => exact State.callModule_inv hstore hrun hlink h
  | returned _ h => exact State.returnFromSub_inv hstore hrun hlink h
  | returnedFromException _ h => exact State.returnFromException_inv hstore hrun hlink h

/-- What a fetch, decode and execute answers: an instruction's end, or an exception. -/
theorem State.runInstr_next (h : s.runInstr = .next t) : (∃ i, exec i s = .next t) ∨ ∃ e, s.raise e = .next t := by
  unfold State.runInstr at h
  split at h
  · exact .inr ⟨_, h⟩
  · cases h
  · split at h
    · exact .inl ⟨_, h⟩
    · exact .inr ⟨_, h⟩

theorem State.runInstr_inv (hs : s.Inv) (hrun : s.run = .running) (h : s.runInstr = .next t) : t.Inv := by
  obtain ⟨i, h⟩ | ⟨e, h⟩ := State.runInstr_next h
  · exact exec_inv hs hrun h
  · exact State.raise_inv hs hrun h

/-- PENDING without its least number is still a set of numbers below NIRQ. -/
theorem risingBelow_tail {nirq n : Nat} {rest : List Nat} (h : risingBelow 0 nirq (n :: rest) = true) :
    risingBelow 0 nirq rest = true := by
  simp only [risingBelow, Bool.and_eq_true] at h
  cases rest with
  | nil => rfl
  | cons m more =>
    simp only [risingBelow, Bool.and_eq_true, decide_eq_true_eq] at h ⊢
    exact ⟨⟨Nat.zero_le m, h.2.1.2⟩, h.2.2⟩

theorem State.takeInterrupt_inv (hs : s.Inv) (hrun : s.run ≠ .halted) (h : s.takeInterrupt = .next t) : t.Inv := by
  unfold State.takeInterrupt at h
  split at h
  · exact Host.Outcome.next.inj h ▸ hs
  next n rest hpending =>
    obtain ⟨hdata, hbelow, hcode, hrising⟩ := hs.storeWf
    have hrest : (s.setPending rest).StoreWf := ⟨hdata, hbelow, hcode, risingBelow_tail (hpending ▸ hrising)⟩
    have ht := hrest.setRun .running
    dsimp only at h
    split at h
    next hsleep =>
      exact (ht.setCm _).enter_inv rfl h (fun _ => hs.link_nil hsleep) fun hkind => absurd rfl hkind
    next hawake =>
      have hchain : s.run = .running ∨ s.run = .asleep := by
        cases hr : s.run with
        | running => exact .inl rfl
        | asleep => exact .inr rfl
        | vmSleep => exact absurd hr hawake
        | halted => exact absurd hr hrun
      exact ht.enter_inv rfl h nofun fun _ => hs.linkChain hchain

@[simp] theorem State.arrive_run (s : State) : s.arrive.run = s.run := by rw [State.arrive_frame]

theorem State.arrive_inv (hs : s.Inv) : s.arrive.Inv := by
  unfold State.arrive
  split
  · exact hs
  · obtain ⟨hdata, hbelow, hcode, hpending, hlink, hmode⟩ := hs
    exact ⟨hdata, hbelow, hcode, risingBelow_addIrqs _ hpending, hlink, hmode⟩

theorem State.interruptReady_not_halted (h : s.interruptReady = true) : s.run ≠ .halted := by
  simp only [State.interruptReady, Bool.and_eq_true, decide_eq_true_eq] at h
  exact h.2

/-- The ways a step answers: an outside reset, an interrupt, an instruction, or nothing to do (R311). -/
theorem step_next (h : step s = .next t) :
    t = s.arrive.reboot ∨ (s.arrive.interruptReady = true ∧ s.arrive.takeInterrupt = .next t) ∨
    (s.run = .running ∧ s.arrive.runInstr = .next t) ∨ (s.run ≠ .running ∧ t = s.arrive) := by
  unfold step at h
  split at h
  · exact .inl (Host.Outcome.next.inj h).symm
  · split at h
    next hready => exact .inr (.inl ⟨hready, h⟩)
    next =>
      split at h
      next hrun => exact .inr (.inr (.inl ⟨hrun, h⟩))
      all_goals
        next hrun => exact .inr (.inr (.inr ⟨by simp [hrun], (Host.Outcome.next.inj h).symm⟩))

end

/-! ### The obligations on the invariant and on LINK -/

/-- Settles O12: each way a step answers keeps what is stored in its form and leaves LINK as its run state needs it. -/
theorem stepKeepsInv : Obligations.StepKeepsInv := by
  intro s t hs h
  have ha := State.arrive_inv hs
  obtain rfl | ⟨hready, h⟩ | ⟨hrun, h⟩ | ⟨-, rfl⟩ := step_next h
  · exact ha.storeWf.reboot_inv
  · exact State.takeInterrupt_inv ha (State.interruptReady_not_halted hready) h
  · exact State.runInstr_inv ha (s.arrive_run.trans hrun) h
  · exact ha

/-- Entering a handler for an exception or a trap keeps LINK and goes to an export of the kernel. -/
theorem State.enter_switches {s t : State} {k : Nat} {retpc : Word} (h : s.enter .faultOrTrap k retpc = .next t)
    (hboots : t.boots = s.boots) : t.link = s.link ∧
      ∃ m x off, s.kernel = some m ∧ s.moduleAt m = some x ∧ x.exports[k]? = some off ∧ t.cm = m ∧ t.pc = off := by
  obtain rfl | ⟨m, off, u, hh, hu, rfl⟩ := State.enter_next h
  · rw [State.reboot_boots] at hboots
    omega
  · obtain ⟨x, hkernel, hx, hoff, -⟩ := State.handler_some.mp hh
    exact ⟨(KeepsVm.pushFrame hu).link, m, x, off, hkernel, hx, hoff, rfl, rfl⟩

/-- Settles O21: of the ways an instruction ends, those that reach CM or LINK are a handler's entry, a reboot, and the
four excluded instructions. -/
theorem moduleSwitches : Obligations.ModuleSwitches := by
  intro i s t h hboots hi
  cases exec_end h with
  | ordinary _ hkeep => exact ⟨hkeep.link, .inl hkeep.cm⟩
  | slept _ ht => exact ht ▸ ⟨rfl, .inl rfl⟩
  | rebooted _ ht =>
    rw [ht, State.reboot_boots] at hboots
    omega
  | event k retpc h =>
    obtain ⟨hlink, m, x, off, hentry⟩ := State.enter_switches h hboots
    exact ⟨hlink, .inr ⟨k, m, x, off, hentry⟩⟩
  | called _ _ _ hi' _ => exact absurd (hi'.symm.trans hi) (by decide)
  | returned hi' _ => exact absurd hi (by simp [hi', Instr.switchesModule])
  | returnedFromException hi' _ => exact absurd hi (by simp [hi', Instr.switchesModule])

/-! ### Reset (R43) -/

/-- Settles O13: both memories, PENDING and LINK are empty and the machine is halted; the parameters are numbers. -/
theorem resetInv : Obligations.ResetInv :=
  ⟨State.StoreWf.inv_of_halted ⟨Memory.wf_nil .data, Memory.below_nil _, Memory.wf_nil .code, rfl⟩ rfl rfl, by decide⟩

/-- Settles O17: each value is the field of `State.reset` or `Platform.reset` itself. -/
theorem resetValues : Obligations.ResetValues :=
  ⟨rfl, rfl, rfl, rfl, rfl, rfl, rfl, rfl, rfl, rfl, rfl, rfl, rfl, rfl⟩

/-! ### The two stack pointers (R33) -/

section

variable {s t : State}

theorem State.curStack_supervisor (h : s.ps.m = true) : s.curStack = .sup := by simp [State.curStack, h]

theorem State.curStack_user (h : s.ps.m = false) : s.curStack = .usr := by simp [State.curStack, h]

theorem State.sp_supervisor (h : s.ps.m = true) : s.sp = s.ssp := by rw [State.sp, State.curStack_supervisor h]; rfl

theorem State.sp_user (h : s.ps.m = false) : s.sp = s.usp := by rw [State.sp, State.curStack_user h]; rfl

@[simp] theorem State.operand_sp (s : State) (next : Word) : s.operand next .word (.special .sp) = s.sp :=
  BitVec.setWidth_eq _

@[simp] theorem State.operand_usp (s : State) (next : Word) : s.operand next .word (.special .usp) = s.usp :=
  BitVec.setWidth_eq _

theorem State.writeOperand_sp (s : State) (next v : Word) :
    s.writeOperand next .word v (.special .sp) = (s.setPc next).setSp s.curStack v :=
  congrArg ((s.setPc next).setSp s.curStack) (BitVec.setWidth_eq v)

theorem State.writeOperand_usp (s : State) (next v : Word) :
    s.writeOperand next .word v (.special .usp) = { s with pc := next, usp := v } :=
  congrArg (s.setPc next).setUsp (BitVec.setWidth_eq v)

/-! In user mode no operand and no base reads or writes SSP: of the special registers SP alone could, and it is USP. -/

theorem State.sp_setSsp_user (h : s.ps.m = false) (v : Word) : (s.setSsp v).sp = s.sp :=
  (State.sp_user (s := s.setSsp v) h).trans (State.sp_user h).symm

theorem State.operand_setSsp_user (h : s.ps.m = false) (v next : Word) (sz : Size) (o : Operand) :
    (s.setSsp v).operand next sz o = s.operand next sz o := by
  cases o with
  | gp n => cases sz <;> rfl
  | special r =>
    cases r
    case sp => exact congrArg (BitVec.setWidth sz.bits) (State.sp_setSsp_user h v)
    all_goals rfl

theorem State.writeOperand_ssp_user (h : s.ps.m = false) (next : Word) (sz : Size) (x : BitVec sz.bits) (o : Operand) :
    (s.writeOperand next sz x o).ssp = s.ssp := by
  cases o with
  | gp n => cases sz <;> rfl
  | special r =>
    cases r
    case sp =>
      have hk : (s.setPc next).curStack = .usr := State.curStack_user h
      simp only [State.writeOperand, State.setSpecial, hk]
      rfl
    all_goals rfl

theorem State.base_setSsp_user (h : s.ps.m = false) (v : Word) (sz : Size) (o : Operand) :
    (s.setSsp v).base sz o = s.base sz o := by
  cases o with
  | gp n => cases sz <;> rfl
  | special r =>
    simp only [State.base, State.sp_setSsp_user h]
    rfl

/-- The pointer a push or pop writes is the current one afterwards as well. -/
@[simp] theorem State.sp_setSp_curStack (s : State) (v : Word) : (s.setSp s.curStack v).sp = v := by
  have hk : (s.setSp s.curStack v).curStack = s.curStack := by simp [State.curStack]
  rw [State.sp, hk, State.setSp_spOf]

theorem State.push_sp {sz : Size} {x : BitVec sz.bits} (h : s.push sz x = .ok t) :
    t.sp = s.sp + BitVec.ofNat 16 sz.bytes := by
  rw [State.push_frame h]
  exact State.sp_setSp_curStack { s with data := t.data } _

theorem State.push_counts {sz : Size} {x : BitVec sz.bits} (h : s.push sz x = .ok t)
    (hlt : s.sp.toNat + sz.bytes < 65536) : t.sp.toNat = s.sp.toNat + sz.bytes := by
  rw [State.push_sp h]
  cases sz <;> simp only [Size.bytes] at hlt ⊢ <;> bv_omega

theorem State.pop_counts {sz : Size} {x : BitVec sz.bits} (h : s.pop sz = .ok (x, t)) :
    t.sp.toNat + sz.bytes = s.sp.toNat := by
  obtain ⟨hle, -, rfl⟩ := State.pop_ok.mp h
  rw [State.sp_setSp_curStack]
  cases sz <;> simp only [Size.bytes] at hle ⊢ <;> bv_omega

end

/-- Settles O22: SP is the pointer of the current mode's stack, which user mode never makes SSP, and pushes and pops
move it by their bytes. -/
theorem stackPointers : Obligations.StackPointers := by
  intro s next v
  refine ⟨fun h => ⟨?_, ?_⟩, fun h => ⟨?_, ?_⟩, s.operand_usp next, s.writeOperand_usp next v, fun h o sz x => ?_,
    fun _ _ _ => State.push_counts, fun _ _ _ => State.pop_counts⟩
  · rw [State.operand_sp, State.sp_supervisor h]
  · rw [State.writeOperand_sp, State.curStack_supervisor h]; rfl
  · rw [State.operand_sp, State.sp_user h]
  · rw [State.writeOperand_sp, State.curStack_user h]; rfl
  · exact ⟨State.operand_setSsp_user h v next sz o, State.writeOperand_ssp_user h next sz x o,
      State.base_setSsp_user h v sz o⟩

end Sys2Proof.Machine

/-! PROOFS. Code space, the parameters and the module table through a step (20_memory.md R63, R78, R87): only a reboot
reaches the table, and of it only the BSS places. -/

namespace Sys2Proof.Machine

/-! ### What a reboot keeps of the module table -/

/-- The module table but for the BSS places, which are a reboot's to choose. -/
def withoutBss (mods : List Module) : List Module := mods.map fun m => { m with bssBase := 0 }

theorem withoutBss_placeBss (dataSize boot : Nat) (mods : List Module) :
    withoutBss (placeBss dataSize boot mods) = withoutBss mods := by
  apply List.ext_getElem <;> simp [withoutBss, placeBss]

/-- Code space and the parameters are the same, the module table is the same but for the BSS places, and it is wholly
the same with no reboot between. -/
structure KeepsCode (s t : State) : Prop where
  code : t.code = s.code
  platform : t.platform = s.platform
  modules : withoutBss t.mods = withoutBss s.mods
  mods : t.boots = s.boots → t.mods = s.mods
  boots : s.boots ≤ t.boots

namespace KeepsCode

variable {s t u : State}

/-- All but a reboot leaves the four fields alone. -/
theorem of_same (hcode : t.code = s.code) (hplatform : t.platform = s.platform) (hmods : t.mods = s.mods)
    (hboots : t.boots = s.boots) : KeepsCode s t :=
  ⟨hcode, hplatform, congrArg withoutBss hmods, fun _ => hmods, hboots.ge⟩

theorem trans (h : KeepsCode s t) (h' : KeepsCode t u) : KeepsCode s u where
  code := h'.code.trans h.code
  platform := h'.platform.trans h.platform
  modules := h'.modules.trans h.modules
  mods hboots := by
    have hst := h.boots
    have htu := h'.boots
    exact (h'.mods (by omega)).trans (h.mods (by omega))
  boots := h.boots.trans h'.boots

theorem of_keepsVm (h : KeepsVm s t) : KeepsCode s t := .of_same h.code h.platform h.mods h.boots

/-! #### The VM's operations -/

theorem startModule (s : State) (m : Byte) (supervisor : Bool) (phase : VmPhase) :
    KeepsCode s (s.startModule m supervisor phase) := .of_same rfl rfl rfl rfl

theorem bootClear (s : State) : KeepsCode s s.bootClear where
  code := rfl
  platform := rfl
  modules := withoutBss_placeBss ..
  mods hboots := absurd hboots (Nat.succ_ne_self s.boots)
  boots := Nat.le_succ s.boots

theorem reboot (s : State) : KeepsCode s s.reboot := by
  obtain h | ⟨m, p, h⟩ := s.reboot_cases
  · exact h ▸ bootClear s
  · exact h ▸ (bootClear s).trans (startModule s.bootClear m true p)

theorem returnToVm (s : State) : KeepsCode s s.returnToVm := by
  obtain h | h | ⟨a, h⟩ := s.returnToVm_cases
  · exact h ▸ .of_same rfl rfl rfl rfl
  · exact h ▸ .of_same rfl rfl rfl rfl
  · exact h ▸ startModule s a false .application

theorem linkOnEntry (s : State) (kind : EventKind) : KeepsCode s (s.linkOnEntry kind) := by
  unfold State.linkOnEntry
  split <;> exact .of_same rfl rfl rfl rfl

/-- Entering a handler writes a frame, LINK, CM and PC; without one the machine reboots (R266). -/
theorem enter {kind : EventKind} {k : Nat} {retpc : Word} (h : s.enter kind k retpc = .next t) : KeepsCode s t := by
  obtain rfl | ⟨m, off, u, -, hu, rfl⟩ := State.enter_next h
  · exact reboot s
  · exact ((of_keepsVm (.pushFrame hu)).trans (linkOnEntry u kind)).trans (.of_same rfl rfl rfl rfl)

/-! #### Calls and returns -/

theorem callModule {imp fn : Nat} {next : Word} (h : s.callModule imp fn next = .ok t) : KeepsCode s t := by
  obtain ⟨m, off, u, -, hu, rfl⟩ := State.callModule_ok.mp h
  exact (of_keepsVm (.push hu)).trans (.of_same rfl rfl rfl rfl)

theorem returnFromSub (h : s.returnFromSub = .ok t) : KeepsCode s t := by
  obtain ⟨r, rest, -, -, rfl⟩ | ⟨r, rest, v, u, -, -, hp, rfl⟩ | ⟨v, u, hp, rfl⟩ := State.returnFromSub_ok h
  · have hlink : KeepsCode s (s.setLink rest) := .of_same rfl rfl rfl rfl
    exact hlink.trans (returnToVm (s.setLink rest))
  · exact (of_keepsVm (.pop hp)).trans (.of_same rfl rfl rfl rfl)
  · exact of_keepsVm ((KeepsVm.pop hp).setPc v)

theorem returnFromException (h : s.returnFromException = .ok t) : KeepsCode s t := by
  obtain ⟨u, hkeep, ⟨r, rest, -, -, rfl⟩ | ⟨m, v, rfl⟩⟩ := State.returnFromException_ok h
  · exact (of_keepsVm hkeep).trans (.of_same rfl rfl rfl rfl)
  · exact (of_keepsVm hkeep).trans (.of_same rfl rfl rfl rfl)

/-! #### One step -/

theorem of_exec {i : Instr} (h : exec i s = .next t) : KeepsCode s t := by
  cases exec_end h with
  | ordinary _ hkeep => exact of_keepsVm hkeep
  | slept _ ht => exact ht ▸ .of_same rfl rfl rfl rfl
  | rebooted _ ht => exact ht ▸ reboot s
  | event _ _ h => exact enter h
  | called _ _ _ _ h => exact callModule h
  | returned _ h => exact returnFromSub h
  | returnedFromException _ h => exact returnFromException h

theorem runInstr (h : s.runInstr = .next t) : KeepsCode s t := by
  obtain ⟨i, h⟩ | ⟨e, h⟩ := State.runInstr_next h
  · exact of_exec h
  · exact enter h

theorem takeInterrupt (h : s.takeInterrupt = .next t) : KeepsCode s t := by
  unfold State.takeInterrupt at h
  split at h
  · exact Host.Outcome.next.inj h ▸ .of_same rfl rfl rfl rfl
  next n rest _ =>
    have hawake : KeepsCode s ((s.setPending rest).setRun .running) := .of_same rfl rfl rfl rfl
    have hcm (m : Byte) : KeepsCode s (((s.setPending rest).setRun .running).setCm m) := .of_same rfl rfl rfl rfl
    dsimp only at h
    split at h
    · exact (hcm _).trans (enter h)
    · exact hawake.trans (enter h)

theorem arrive (s : State) : KeepsCode s s.arrive := by
  rw [State.arrive_frame]
  exact .of_same rfl rfl rfl rfl

theorem of_step (h : step s = .next t) : KeepsCode s t := by
  obtain rfl | ⟨-, h⟩ | ⟨-, h⟩ | ⟨-, rfl⟩ := step_next h
  · exact (arrive s).trans (reboot s.arrive)
  · exact (arrive s).trans (takeInterrupt h)
  · exact (arrive s).trans (runInstr h)
  · exact arrive s

end KeepsCode

/-- Settles O14: no operation but a reboot reaches code space, the parameters, the table or the count of reboots, and a
reboot places the BSS blocks alone. -/
theorem stepKeepsCode : Obligations.StepKeepsCode := by
  intro s t h
  obtain ⟨hcode, hplatform, hmodules, hmods, hboots⟩ := KeepsCode.of_step h
  exact ⟨hcode, hplatform, hmodules, hmods, hboots⟩

end Sys2Proof.Machine

/-! PROOFS. The fetch (20_memory.md R61, R62): its range check, the bytes an instruction takes, and the one exception
it raises. -/

namespace Sys2Proof.Machine

/-! ### The range check of one byte -/

section

variable {s : State} {m : Module} {p : Word}

theorem State.fetch_noModule (h : s.curModule = none) (p : Word) : s.fetch p = .error (.raise .addrErr) := by
  simp only [State.fetch, h]

theorem State.fetch_beyond (h : s.curModule = some m) (hp : m.codeSize.toNat ≤ p.toNat) :
    s.fetch p = .error (.raise .addrErr) := by
  simp only [State.fetch, h, if_neg (Nat.not_lt.mpr hp)]

/-! ### The bytes of an instruction -/

theorem State.fetchMany_bytes {n : Nat} {bytes : List Byte} (h : s.fetchMany p n = .ok bytes) :
    bytes.length = n ∧ ∀ k b, bytes[k]? = some b → s.fetch (p + BitVec.ofNat 16 k) = .ok b := by
  induction n generalizing p bytes with
  | zero =>
    obtain rfl := Except.ok.inj h
    exact ⟨rfl, nofun⟩
  | succ n ih =>
    obtain ⟨b0, hb0, h⟩ := try_bind_ok.mp h
    obtain ⟨rest, hrest, h⟩ := try_bind_ok.mp h
    obtain rfl := Except.ok.inj h
    obtain ⟨hlength, hbytes⟩ := ih hrest
    refine ⟨congrArg (· + 1) hlength, fun k b hk => ?_⟩
    cases k with
    | zero =>
      obtain rfl := Option.some.inj hk
      simpa using hb0
    | succ k =>
      have hnext : p + BitVec.ofNat 16 (k + 1) = p + 1 + BitVec.ofNat 16 k := by
        rw [BitVec.add_assoc, Nat.add_comm, BitVec.ofNat_add]
        rfl
      exact hnext ▸ hbytes k b hk

theorem extraBytes_le (b1 b2 : Byte) : extraBytes b1 b2 ≤ 2 := by
  unfold extraBytes
  split_ifs <;> omega

/-- An instruction is one to four bytes fetched in a row from PC on (R100). -/
theorem State.fetchMany_of_fetchInstr {bytes : List Byte} (h : s.fetchInstr = .ok bytes) :
    ∃ n, 1 ≤ n ∧ n ≤ 4 ∧ s.fetchMany s.pc n = .ok bytes := by
  obtain ⟨b1, hb1, h⟩ := try_bind_ok.mp h
  split at h
  · obtain ⟨b2, hb2, h⟩ := try_bind_ok.mp h
    obtain ⟨rest, hrest, h⟩ := try_bind_ok.mp h
    obtain rfl := Except.ok.inj h
    have hextra := extraBytes_le b1 b2
    have hpc : s.pc + 1 + 1 = s.pc + 2 := by rw [BitVec.add_assoc]; rfl
    exact ⟨extraBytes b1 b2 + 2, by omega, by omega,
      State.fetchMany_cons_ok.mpr ⟨hb1, State.fetchMany_cons_ok.mpr ⟨hb2, hpc ▸ hrest⟩⟩⟩
  · obtain rfl := Except.ok.inj h
    exact ⟨1, le_rfl, by omega, State.fetchMany_cons_ok.mpr ⟨hb1, rfl⟩⟩

end

/-! ### The exception a fetch raises -/

/-- The only exception the operation raises is AddrErr. -/
def OnlyAddrErr {α : Type} (x : Try α) : Prop := ∀ e, x = .error (.raise e) → e = .addrErr

theorem onlyAddrErr_ok {α : Type} (a : α) : OnlyAddrErr (.ok a : Try α) := nofun

theorem onlyAddrErr_bind {α β : Type} {x : Try α} {g : α → Try β} (hx : OnlyAddrErr x)
    (hg : ∀ a, OnlyAddrErr (g a)) : OnlyAddrErr (x >>= g) := by
  intro e h
  obtain he | ⟨a, -, he⟩ := try_bind_error.mp h
  · exact hx e he
  · exact hg a e he

theorem State.fetch_onlyAddrErr (s : State) (p : Word) : OnlyAddrErr (s.fetch p) := by
  intro e h
  unfold State.fetch at h
  split at h
  · cases h; rfl
  · split at h
    · split at h <;> cases h
    · cases h; rfl

theorem State.fetchMany_onlyAddrErr (s : State) (p : Word) (n : Nat) : OnlyAddrErr (s.fetchMany p n) := by
  induction n generalizing p with
  | zero => exact onlyAddrErr_ok _
  | succ n ih =>
    exact onlyAddrErr_bind (s.fetch_onlyAddrErr p) fun _ => onlyAddrErr_bind (ih _) fun _ => onlyAddrErr_ok _

theorem State.fetchInstr_onlyAddrErr (s : State) : OnlyAddrErr s.fetchInstr := by
  refine onlyAddrErr_bind (s.fetch_onlyAddrErr _) fun b1 => ?_
  split
  · exact onlyAddrErr_bind (s.fetch_onlyAddrErr _) fun _ =>
      onlyAddrErr_bind (s.fetchMany_onlyAddrErr _ _) fun _ => onlyAddrErr_ok _
  · exact onlyAddrErr_ok _

/-- Settles O9: an instruction's bytes are fetched in a row, each under the range check of `fetch`. -/
theorem fetchRange : Obligations.FetchRange := by
  intro s
  refine ⟨fun p h => State.fetch_noModule h p, fun p m h hp => State.fetch_beyond h hp,
    fun p m h hp hspace => State.fetch_ok.mpr ⟨m, h, hp, hspace, rfl⟩, fun bytes h => ?_, s.fetchInstr_onlyAddrErr⟩
  obtain ⟨n, hpos, hle, hmany⟩ := State.fetchMany_of_fetchInstr h
  obtain ⟨rfl, hbytes⟩ := State.fetchMany_bytes hmany
  exact ⟨hpos, hle, hbytes⟩

end Sys2Proof.Machine

/-! PROOFS. Data space and the stacks (20_memory.md R65 to R74): the byte order of a word, what is read after it is
written, and what a pop gives after a push. -/

namespace Sys2Proof.Machine

/-! ### Cells (R66 to R68) -/

/-- A cell depends on the layout and the mode, not on what data space holds or on PS.B. -/
theorem State.cell_congr {s t : State} (hps : t.ps.m = s.ps.m) (hcm : t.cm = s.cm) (hmods : t.mods = s.mods)
    (hplatform : t.platform = s.platform) (sp : Space) (a : Nat) : t.cell sp a = s.cell sp a := by
  cases sp <;>
    simp only [State.cell, State.bssCell, State.stackCell, State.inData, State.curModule, State.moduleAt, hps, hcm,
      hmods, hplatform]

/-- The two cells of a word are different bytes: BSS grows upwards, a stack downwards (R67, R68). -/
theorem State.cell_ne_next {s : State} {sp : Space} {a c0 c1 : Nat} (h0 : s.cell sp a = .ok c0)
    (h1 : s.cell sp (a + 1) = .ok c1) : c0 ≠ c1 := by
  cases sp with
  | bss =>
    obtain ⟨m, hm, rfl, -⟩ := State.bssCell_ok.mp h0
    obtain ⟨m', hm', rfl, -⟩ := State.bssCell_ok.mp h1
    obtain rfl := Option.some.inj (hm.symm.trans hm')
    omega
  | stack k =>
    obtain ⟨rfl, -⟩ := State.stackCell_ok.mp h0
    obtain ⟨rfl, -, htop, -⟩ := State.stackCell_ok.mp h1
    simp only [State.stackAddr]
    omega

/-! ### Byte order (R65, R66) -/

/-- The two bytes of a word, put and taken in the same order, are the word. -/
theorem joinBytes_same (be : Bool) (v : Word) : joinBytes be (firstByte be v) (secondByte be v) = v := by
  cases be <;> exact high_append_low v

/-- Taken in the other order they are the word with its bytes exchanged. -/
theorem joinBytes_flipped (be : Bool) (v : Word) :
    joinBytes (!be) (firstByte be v) (secondByte be v) = v.extractLsb' 0 8 ++ v.extractLsb' 8 8 := by
  cases be <;> rfl

/-! ### Reading after writing (R66) -/

section

variable {s t : State} {sp : Space} {a : Nat}

/-- What a word write leaves in its two cells. -/
theorem State.memWrite_word_bytes {v : Word} (h : s.memWrite sp a .word v = .ok t) :
    ∃ c0 c1, s.cell sp a = .ok c0 ∧ s.cell sp (a + 1) = .ok c1 ∧ t.dataByte c0 = firstByte s.ps.b v ∧
      t.dataByte c1 = secondByte s.ps.b v ∧ SameDataBut [c0, c1] s t := by
  obtain ⟨c0, c1, h0, h1, rfl⟩ := State.memWrite_word_ok.mp h
  refine ⟨c0, c1, h0, h1, ?_, ?_, fun x hx => ?_⟩
  · simp [State.dataByte_putData, State.cell_ne_next h0 h1]
  · simp [State.dataByte_putData]
  · obtain ⟨hx0, hx1⟩ : x ≠ c0 ∧ x ≠ c1 := by simpa using hx
    simp [State.dataByte_putData, hx0, hx1]

/-- A word read by any PS.B after a word write. -/
theorem State.memRead_after_word {u : State} {v : Word} (h : s.memWrite sp a .word v = .ok t)
    (hu : u = { t with ps := u.ps }) (hmode : u.ps.m = s.ps.m) :
    u.memRead sp a .word = .ok (joinBytes u.ps.b (firstByte s.ps.b v) (secondByte s.ps.b v)) := by
  obtain ⟨c0, c1, h0, h1, hfirst, hsecond, -⟩ := State.memWrite_word_bytes h
  have hcell (x : Nat) : u.cell sp x = s.cell sp x := by
    rw [State.memWrite_frame h] at hu
    exact State.cell_congr hmode (by rw [hu]) (by rw [hu]) (by rw [hu]) sp x
  have hbyte (x : Nat) : u.dataByte x = t.dataByte x := State.dataByte_congr (by rw [hu]) (by rw [hu]) x
  refine State.memRead_word_ok.mpr ⟨c0, c1, (hcell a).trans h0, (hcell (a + 1)).trans h1, ?_⟩
  rw [hbyte, hbyte, hfirst, hsecond]

theorem State.memRead_memWrite {sz : Size} {v : BitVec sz.bits} (h : s.memWrite sp a sz v = .ok t) :
    t.memRead sp a sz = .ok v := by
  have hps : t.ps = s.ps := by rw [State.memWrite_frame h]
  cases sz with
  | byte =>
    obtain ⟨c, hc, rfl⟩ := State.memWrite_byte_ok.mp h
    have hcell : (s.putData c v).cell sp a = s.cell sp a := State.cell_congr rfl rfl rfl rfl sp a
    exact State.memRead_byte_ok.mpr ⟨c, hcell.trans hc, by simp [State.dataByte_putData]⟩
  | word => rw [State.memRead_after_word h rfl (by rw [hps]), hps, joinBytes_same]

/-- A write stores its value in the one or two cells of its address. -/
theorem State.memWrite_storedAt {sz : Size} {v : BitVec sz.bits} {c0 c1 : Nat} (h : s.memWrite sp a sz v = .ok t)
    (h0 : s.cell sp a = .ok c0) (h1 : sz = .word → s.cell sp (a + 1) = .ok c1) : StoredAt s t c0 c1 sz v := by
  cases sz with
  | byte =>
    obtain ⟨c, hc, rfl⟩ := State.memWrite_byte_ok.mp h
    obtain rfl := Except.ok.inj (hc.symm.trans h0)
    refine ⟨by simp [State.dataByte_putData], fun x hx => ?_⟩
    have hne : x ≠ c := by simpa using hx
    simp [State.dataByte_putData, hne]
  | word =>
    obtain ⟨d0, d1, hd0, hd1, hbytes⟩ := State.memWrite_word_bytes h
    obtain rfl := Except.ok.inj (hd0.symm.trans h0)
    obtain rfl := Except.ok.inj (hd1.symm.trans (h1 rfl))
    exact hbytes

end

/-- Settles O38: the word stands in two different cells, which a read joins by the PS.B it finds. -/
theorem byteOrder : Obligations.ByteOrder := by
  intro s t sp a v h
  have hps : t.ps = s.ps := by rw [State.memWrite_frame h]
  refine ⟨State.memRead_memWrite h, ?_, fun c0 c1 => State.cell_ne_next⟩
  rw [State.memRead_after_word h rfl (by simp [hps])]
  simp only [State.setPs_ps, hps, joinBytes_flipped]

/-! ### Pop (R74) -/

section

variable {s t : State} {sz : Size}

/-- Writing the current mode's pointer, as the claims and as the operations say it (10_state.md R33). -/
theorem State.withSp_eq (s : State) (v : Word) : s.withSp v = s.setSp s.curStack v := by
  unfold State.withSp State.curStack
  split <;> rfl

/-- A pop that passes the underflow check raises what its read raises. -/
theorem State.pop_error (hle : sz.bytes ≤ s.sp.toNat) {e : Abort}
    (h : s.memRead (.stack s.curStack) (s.sp.toNat - sz.bytes) sz = .error e) : s.pop sz = .error e := by
  simp [State.pop, hle, h]

/-- On a platform whose stacks fit data space, a read below the capacity gives a value. -/
theorem State.memRead_stack_within (hp : s.platform.stacksFit = true) {k : StackId} {i : Nat}
    (h : i + sz.bytes ≤ s.platform.stackSize k) : ∃ v, s.memRead (.stack k) i sz = .ok v := by
  have hcell {j : Nat} (hj : j < s.platform.stackSize k) : s.cell (.stack k) j = .ok (s.stackAddr k j) :=
    State.stackCell_fits hp hj
  cases sz with
  | byte => exact ⟨_, State.memRead_byte_ok.mpr ⟨_, hcell h, rfl⟩⟩
  | word => exact ⟨_, State.memRead_word_ok.mpr ⟨_, _, hcell (Nat.lt_of_succ_lt h), hcell h, rfl⟩⟩

/-- A read whose last index is at or above the capacity raises StackErr, the second check included (R66, R68). -/
theorem State.memRead_stack_over (hp : s.platform.stacksFit = true) {k : StackId} {i : Nat}
    (h : s.platform.stackSize k < i + sz.bytes) : s.memRead (.stack k) i sz = .error (.raise .stackErr) := by
  have hover {j : Nat} (hj : s.platform.stackSize k ≤ j) : s.cell (.stack k) j = .error (.raise .stackErr) :=
    State.stackCell_over hj
  cases sz with
  | byte => simp only [State.memRead, hover (Nat.le_of_lt_succ h), try_error_bind]
  | word =>
    have hlast : s.cell (.stack k) (i + 1) = .error (.raise .stackErr) := hover (Nat.le_of_lt_succ h)
    by_cases hi : i < s.platform.stackSize k
    · have hfirst : s.cell (.stack k) i = .ok (s.stackAddr k i) := State.stackCell_fits hp hi
      simp only [State.memRead, hfirst, hlast, try_ok_bind, try_error_bind]
    · simp only [State.memRead, hover (Nat.not_lt.mp hi), try_error_bind]

end

/-- Settles O23: past the underflow check a pop is its read, and the read's last index is SP - 1. -/
theorem popRule : Obligations.PopRule := by
  intro s sz
  refine ⟨State.pop_under, fun hle v hv => ?_, fun hle e he => State.pop_error hle he, fun hp hle => ⟨fun hover => ?_,
    fun hwithin => State.memRead_stack_within hp (by omega)⟩⟩
  · rw [State.withSp_eq]
    exact State.pop_ok.mpr ⟨hle, hv, rfl⟩
  · exact State.pop_error hle (State.memRead_stack_over hp (by omega))

/-! ### A pop after a push (R73, R74) -/

/-- A stack pointer put back, with PC moved in between. -/
theorem State.setSp_restored (s : State) (k : StackId) (v pc : Word) :
    ((s.setSp k v).setPc pc).setSp k (s.spOf k) = s.setPc pc := by cases k <;> rfl

section

variable {s t u : State} {sz : Size} {v : BitVec sz.bits}

/-- What is stored depends on data space alone. -/
theorem StoredAt.of_data {c0 c1 : Nat} (h : StoredAt s t c0 c1 sz v) (hdata : u.data = t.data)
    (hboots : u.boots = t.boots) : StoredAt s u c0 c1 sz v := by
  have hbyte (x : Nat) : u.dataByte x = t.dataByte x := State.dataByte_congr hdata hboots x
  cases sz <;> simpa only [StoredAt, SameDataBut, hbyte] using h

/-- A read does not depend on the registers. -/
theorem State.memRead_congr (hu : u = { t with regs := u.regs, pc := u.pc, ssp := u.ssp, usp := u.usp })
    (sp : Space) (a : Nat) (sz : Size) : u.memRead sp a sz = t.memRead sp a sz := by
  have hps : u.ps = t.ps := by rw [hu]
  have hcell (x : Nat) : u.cell sp x = t.cell sp x :=
    State.cell_congr (by rw [hps]) (by rw [hu]) (by rw [hu]) (by rw [hu]) sp x
  have hbyte (x : Nat) : u.dataByte x = t.dataByte x := State.dataByte_congr (by rw [hu]) (by rw [hu]) x
  cases sz <;> simp only [State.memRead, hcell, hbyte, hps]

/-- A write to cells that are there succeeds. -/
theorem State.memWrite_answers {sp : Space} {a c0 c1 : Nat} (h0 : s.cell sp a = .ok c0)
    (h1 : sz = .word → s.cell sp (a + 1) = .ok c1) (v : BitVec sz.bits) : ∃ t, s.memWrite sp a sz v = .ok t := by
  cases sz with
  | byte => exact ⟨_, State.memWrite_byte_ok.mpr ⟨c0, h0, rfl⟩⟩
  | word => exact ⟨_, State.memWrite_word_ok.mpr ⟨c0, c1, h0, h1 rfl, rfl⟩⟩

/-- On a platform whose stacks fit data space, a push with room succeeds and stores its value at index SP. -/
theorem State.push_answers (hp : s.platform.stacksFit = true) (hroom : s.room sz.bytes) (v : BitVec sz.bits) :
    ∃ t, s.push sz v = .ok t ∧ StoredAt s t (s.topCells s.sp.toNat).1 (s.topCells s.sp.toNat).2 sz v := by
  have hroom : s.sp.toNat + sz.bytes ≤ s.platform.stackSize s.curStack := hroom
  have hcell {j : Nat} (hj : j < s.platform.stackSize s.curStack) :
      s.cell (.stack s.curStack) j = .ok (s.stackAddr s.curStack j) := State.stackCell_fits hp hj
  have hbytes : 1 ≤ sz.bytes := by cases sz <;> decide
  have h0 := hcell (j := s.sp.toNat) (by omega)
  have h1 (hw : sz = .word) := hcell (j := s.sp.toNat + 1) (by subst hw; exact hroom)
  obtain ⟨u, hu⟩ := State.memWrite_answers h0 h1 v
  exact ⟨_, State.push_ok.mpr ⟨hroom, u, hu, rfl⟩,
    (State.memWrite_storedAt hu h0 h1).of_data (State.setSp_data ..) (State.setSp_boots ..)⟩

/-- The pop gives back the value pushed, wherever PC went in between, and of the rest of the machine only the data
space the push wrote differs. -/
theorem State.pop_push (h : s.push sz v = .ok t) (hlt : s.sp.toNat + sz.bytes < 65536) (pc : Word) :
    (t.setPc pc).pop sz = .ok (v, { s with data := t.data, pc := pc }) := by
  have hframe := State.push_frame h
  have hcur : (t.setPc pc).curStack = s.curStack := by rw [hframe]; simp [State.curStack]
  have hsp : (t.setPc pc).sp = t.sp := rfl
  have hcount := State.push_counts h hlt
  refine State.pop_ok.mpr ⟨by rw [hsp]; omega, ?_, ?_⟩
  · obtain ⟨-, u, hu, rfl⟩ := State.push_ok.mp h
    rw [hcur, hsp, hcount, Nat.add_sub_cancel, ← State.memRead_memWrite hu]
    exact State.memRead_congr (by rw [State.setSp_eq]; rfl) ..
  · rw [hcur, hsp, State.push_sp h, BitVec.add_sub_cancel]
    have hback := State.setSp_restored { s with data := t.data } s.curStack (s.sp + BitVec.ofNat 16 sz.bytes) pc
    rw [← hframe] at hback
    exact hback.symm

end

/-! ### STORE and LOAD in stack mode (44_load_store_io.md R213 to R215) -/

section

variable {s t : State} {sz : Size}

theorem exec_store_push (hsm : s.ps.sm = true) {d : Operand} (hd : s.operandOk .source sz d = true)
    (h : s.push sz (s.operand (s.nextPc 2) sz d) = .ok t) :
    exec (.store sz d .word (.special .sp) .none) s = .next (t.setPc (s.nextPc 2)) := by
  simp [exec, execStore, hd, State.base, State.stackOp, hsm, Index.bytes, h]

theorem exec_load_pop (hsm : s.ps.sm = true) {d : Operand} (hd : s.operandOk .dest sz d = true) {v : BitVec sz.bits}
    (h : s.pop sz = .ok (v, t)) :
    exec (.load sz d .word (.special .sp) .none) s = .next (t.writeOperand (s.nextPc 2) sz v d) := by
  simp [exec, execLoad, hd, State.base, State.stackOp, hsm, Index.bytes, h]

end

/-- A general register or pair, as the claims and as the operations read it (10_state.md R21, R22). -/
theorem gpValue_eq (s : State) (n : RegNum) (sz : Size) : GpValue s n sz = s.gp n sz := by cases sz <;> rfl

theorem holdsReg_setGp {s t : State} (ht : t.regs = s.regs) (sz : Size) (n : RegNum) (v : BitVec sz.bits) :
    HoldsReg s (t.setGp n sz v) sz n v := by
  refine ⟨by rw [gpValue_eq, State.gp_setGp], fun k hk => ?_⟩
  have hsame : t.reg k = s.reg k := by simp only [State.reg, ht]
  exact (State.reg_setGp_other t v hk).trans hsame

/-- Settles O44: the STORE is a push and the LOAD the pop that undoes it. -/
theorem pushThenPop : Obligations.PushThenPop := by
  intro sz a b s hp hsm hroom hlt
  obtain ⟨t, hpush, hstored⟩ := State.push_answers hp hroom (s.gp a sz)
  have hpop := State.pop_push hpush hlt (s.nextPc 2)
  have hsm' : (t.setPc (s.nextPc 2)).ps.sm = true := by
    rw [State.push_frame hpush]
    simpa using hsm
  have hnext : (t.setPc (s.nextPc 2)).nextPc 2 = s.pc + 4 := BitVec.add_assoc s.pc 2 2
  refine ⟨_, _, exec_store_push hsm rfl hpush, exec_load_pop hsm' rfl hpop, ?_, ?_, ?_⟩
  · rw [gpValue_eq]
    exact hstored.of_data rfl rfl
  · rw [gpValue_eq]
    exact holdsReg_setGp rfl sz b (s.gp a sz)
  · rw [hnext]
    simp only [State.writeOperand]
    rw [State.setGp_eq]
    rfl

end Sys2Proof.Machine

/-! PROOFS. IOCTL beyond IO space (20_memory.md R70, 44_load_store_io.md R216, R217): both ports are checked before
either is touched. -/

namespace Sys2Proof.Machine

section

variable {s : State} {sz : Size}

/-! ### Operands in supervisor mode (R36) -/

/-- Supervisor mode may name PS, so a form without a reserved field value passes every check. -/
theorem State.operandOk_source (hm : s.ps.m = true) {o : Operand} (h : o.sized sz = true) :
    s.operandOk .source sz o = true := by
  cases o with
  | gp n => rfl
  | special r => simpa [State.operandOk, Operand.sized, hm] using h

theorem State.operandOk_dest (hm : s.ps.m = true) {o : Operand} (h : o.destWf sz = true) :
    s.operandOk .dest sz o = true := by
  obtain ⟨hsized, hcm⟩ := (Bool.and_eq_true ..).mp h
  cases o with
  | gp n => rfl
  | special r =>
    have hr : r ≠ .cm := by
      rintro rfl
      cases hcm
    simpa [State.operandOk, Operand.sized, hm, hr] using hsized

/-! ### Ports at or above IO_SIZE -/

theorem State.portOk_beyond {port : Nat} (h : s.platform.ioSize ≤ port) :
    s.portOk port = .error (.raise .addrErr) := by
  simp [State.portOk, Nat.not_lt.mpr h]

/-- The check of the last port decides: below it the first port may pass its own. -/
theorem State.portOk_last_beyond {port : Nat} (h : s.platform.ioSize ≤ port + 1) {α : Type} (x : Try α) :
    (s.portOk port >>= fun _ => s.portOk (port + 1) >>= fun _ => x) = .error (.raise .addrErr) := by
  rw [State.portOk_beyond h]
  by_cases hport : port < s.platform.ioSize
  · rw [State.portOk_ok (u := ()).mpr hport]; rfl
  · rw [State.portOk_beyond (Nat.not_lt.mp hport)]; rfl

theorem State.ioRead_beyond {port : Nat} (h : s.platform.ioSize < port + sz.bytes) :
    s.ioRead port sz = .error (.raise .addrErr) := by
  cases sz with
  | byte => simp only [State.ioRead, State.portOk_beyond (Nat.le_of_lt_succ h), try_error_bind]
  | word => exact State.portOk_last_beyond (Nat.le_of_lt_succ h) _

theorem State.ioWrite_beyond {port : Nat} (h : s.platform.ioSize < port + sz.bytes) (v : BitVec sz.bits) :
    s.ioWrite port sz v = .error (.raise .addrErr) := by
  cases sz with
  | byte => simp only [State.ioWrite, State.portOk_beyond (Nat.le_of_lt_succ h), try_error_bind]
  | word => exact State.portOk_last_beyond (Nat.le_of_lt_succ h) _

theorem State.portBase_gp (s : State) (db : Size) (n : RegNum) :
    s.portBase db (.gp n) = .ok ((GpValue s n db).setWidth 16) := by rw [gpValue_eq]; rfl

end

/-- Settles O47: past the form's own checks, which supervisor mode passes, the access is refused as a whole. -/
theorem ioctlTraps : Obligations.IoctlTraps := by
  intro sz d db n idx s hm hbeyond
  refine ⟨fun hwf => ?_, fun hwf => ?_⟩
  · have hd : d.destWf sz = true := by simpa [Instr.wellFormed, Operand.portWf] using hwf
    simp only [exec, execIoctlIn, hm, State.portBase_gp, State.operandOk_dest hm hd, State.ioRead_beyond hbeyond,
      need_true, try_ok_bind, try_error_bind, State.finish_raise]
  · have hd : d.sized sz = true := by simpa [Instr.wellFormed, Operand.portWf] using hwf
    simp only [exec, execIoctlOut, hm, State.portBase_gp, State.operandOk_source hm hd, State.ioWrite_beyond hbeyond,
      need_true, try_ok_bind, try_error_bind, State.finish_raise]

end Sys2Proof.Machine

/-! PROOFS. The encoding as a whole (30_encoding.md): decoding is the inverse of encoding in both directions, the
lengths of R100, and the encodings the decoder refuses. -/

namespace Sys2Proof

/-! ### Lengths between 1 and 4 (R100) -/

theorem Index.bytes_le_two (idx : Index) : idx.bytes ≤ 2 := by cases idx <;> simp [Index.bytes]

theorem Imm.bytes_bounds (c : Imm) : 1 ≤ c.bytes ∧ c.bytes ≤ 2 := by cases c <;> simp [Imm.bytes]

theorem Instr.length_bounds (i : Instr) : 1 ≤ i.length ∧ i.length ≤ 4 := by
  cases i with
  | load _ _ _ _ idx | store _ _ _ _ idx | ioctlIn _ _ _ _ idx | ioctlOut _ _ _ _ idx =>
    have hidx := idx.bytes_le_two
    simp only [Instr.length]
    omega
  | movc _ c | testc _ c | bcc _ _ c =>
    have hc := c.bytes_bounds
    simp only [Instr.length]
    omega
  | _ => exact ⟨by simp [Instr.length], by simp [Instr.length]⟩

/-- Settles O1: the decoder reads every encoding back. -/
theorem decodeEncode : Obligations.DecodeEncode := decode_encode

/-- Settles O3: the first two bytes of every encoding announce its length. -/
theorem encodingLength : Obligations.EncodingLength := by
  intro i
  obtain ⟨hlow, hhigh⟩ := i.length_bounds
  have hbytes := encode_announcesLength i
  refine ⟨encode_length i, hlow, hhigh, fun b1 hb => ?_, fun b1 b2 more hb => ?_⟩ <;> rwa [hb] at hbytes

/-- Settles O4: each word is the encoding of its instruction, evaluated byte by byte. -/
theorem decodeWords : Obligations.DecodeWords :=
  ⟨rfl, rfl, rfl, rfl, rfl, rfl, rfl, rfl, rfl, rfl, rfl, rfl⟩

/-! ### Every byte has each layout of R102 to R111 -/

theorem exists_wideOpcode_layout (b : Byte) : ∃ (op : BitVec 3) (x y : BitVec 1) (r : RegNum), b = op ++ x ++ y ++ r :=
  ⟨b.extractLsb' 5 3, b.extractLsb' 4 1, b.extractLsb' 3 1, b.extractLsb' 0 3, by revert b; decide⟩

theorem exists_two_register_layout (b : Byte) :
    ∃ (o : BitVec 2) (x y z : BitVec 1) (r : RegNum), b = o ++ x ++ y ++ z ++ r :=
  ⟨b.extractLsb' 6 2, b.extractLsb' 5 1, b.extractLsb' 4 1, b.extractLsb' 3 1, b.extractLsb' 0 3, by revert b; decide⟩

theorem exists_two_nibble_layout (b : Byte) : ∃ (o : BitVec 2) (x y : BitVec 1) (v : BitVec 4), b = o ++ x ++ y ++ v :=
  ⟨b.extractLsb' 6 2, b.extractLsb' 5 1, b.extractLsb' 4 1, b.extractLsb' 0 4, by revert b; decide⟩

theorem exists_arith_layout {b : Byte} (h4 : b[4] = false) (h3 : b[3] = false) :
    ∃ (o : BitVec 2) (x : BitVec 1) (r : RegNum), b = o ++ x ++ 0b00#2 ++ r :=
  ⟨b.extractLsb' 6 2, b.extractLsb' 5 1, b.extractLsb' 0 3, by revert b; decide⟩

theorem exists_five_register_layout (b : Byte) :
    ∃ (w o x y z : BitVec 1) (r : RegNum), b = w ++ o ++ x ++ y ++ z ++ r :=
  ⟨b.extractLsb' 7 1, b.extractLsb' 6 1, b.extractLsb' 5 1, b.extractLsb' 4 1, b.extractLsb' 3 1, b.extractLsb' 0 3,
    by revert b; decide⟩

theorem exists_four_nibble_layout (b : Byte) : ∃ (w o x y : BitVec 1) (v : BitVec 4), b = w ++ o ++ x ++ y ++ v :=
  ⟨b.extractLsb' 7 1, b.extractLsb' 6 1, b.extractLsb' 5 1, b.extractLsb' 4 1, b.extractLsb' 0 4, by revert b; decide⟩

theorem exists_testb_layout {b : Byte} (h7 : b[7] = false) (h6 : b[6] = false) (h5 : b[5] = false) :
    ∃ (x y : BitVec 1) (r : RegNum), b = 0b000#3 ++ x ++ y ++ r :=
  ⟨b.extractLsb' 4 1, b.extractLsb' 3 1, b.extractLsb' 0 3, by revert b; decide⟩

theorem exists_testbc_layout {b : Byte} (h7 : b[7] = false) (h6 : b[6] = true) (h5 : b[5] = false) :
    ∃ (x : BitVec 1) (v : BitVec 4), b = 0b010#3 ++ x ++ v :=
  ⟨b.extractLsb' 4 1, b.extractLsb' 0 4, by revert b; decide⟩

theorem exists_quick_layout (b : Byte) : ∃ (v : BitVec 4) (x : BitVec 1) (r : RegNum), b = v ++ x ++ r :=
  ⟨b.extractLsb' 4 4, b.extractLsb' 3 1, b.extractLsb' 0 3, by revert b; decide⟩

theorem exists_nibbles_layout (b : Byte) : ∃ v w : BitVec 4, b = v ++ w :=
  ⟨b.extractLsb' 4 4, b.extractLsb' 0 4, by revert b; decide⟩

theorem two_bits_cases (o : BitVec 2) : o = 0 ∨ o = 1 ∨ o = 2 ∨ o = 3 := by revert o; decide

theorem regNum_cases (r : RegNum) : r = 0 ∨ r = 1 ∨ r = 2 ∨ r = 3 ∨ r = 4 ∨ r = 5 ∨ r = 6 ∨ r = 7 := by
  revert r; decide

/-! ### The rows of the first byte -/

/-- The rows of R102 to R111 that a first byte can stand in, and the rows R116(a), (b) leave unassigned. -/
inductive FirstByte : Byte → Prop
  | oneByte (r : RegNum) : FirstByte (0b00000#5 ++ r)
  | logic (r : RegNum) : FirstByte (0b00001#5 ++ r)
  | arith (r : RegNum) : FirstByte (0b00010#5 ++ r)
  | testMul (r : RegNum) : FirstByte (0b00011#5 ++ r)
  | shift (r : RegNum) : FirstByte (0b00100#5 ++ r)
  | shiftC (r : RegNum) : FirstByte (0b00101#5 ++ r)
  | bit (r : RegNum) : FirstByte (0b00110#5 ++ r)
  | testBit (r : RegNum) : FirstByte (0b00111#5 ++ r)
  | quick (r : RegNum) : FirstByte (0b01000#5 ++ r)
  | gap (op : BitVec 5) (h : op = 9 ∨ op = 10 ∨ op = 11) (r : RegNum) : FirstByte (op ++ r)
  | mem (op : BitVec 3) (h : op = 3 ∨ op = 4) (x y : BitVec 1) (r : RegNum) : FirstByte (op ++ x ++ y ++ r)
  | const (op : BitVec 3) (h : op = 5 ∨ op = 6 ∨ op = 7) (x y : BitVec 1) (r : RegNum) : FirstByte (op ++ x ++ y ++ r)

/-- Every first byte stands in a row: R102 to R111 and R116 cover all 256. -/
theorem firstByte (b : Byte) : FirstByte b := by
  obtain ⟨op, x, y, r, rfl⟩ := exists_wideOpcode_layout b
  have hop : op = 0 ∨ op = 1 ∨ op = 2 ∨ (op = 3 ∨ op = 4) ∨ (op = 5 ∨ op = 6 ∨ op = 7) := by revert op; decide
  obtain rfl | rfl | rfl | hmem | hconst := hop
  case inr.inr.inr.inl => exact .mem op hmem x y r
  case inr.inr.inr.inr => exact .const op hconst x y r
  all_goals obtain rfl | rfl := x.eq_zero_or_eq_one <;> obtain rfl | rfl := y.eq_zero_or_eq_one
  · exact .oneByte r
  · exact .logic r
  · exact .arith r
  · exact .testMul r
  · exact .shift r
  · exact .shiftC r
  · exact .bit r
  · exact .testBit r
  · exact .quick r
  · exact .gap 9 (by decide) r
  · exact .gap 10 (by decide) r
  · exact .gap 11 (by decide) r

/-! ### Which bytes of a row are refused (R116, R117) -/

theorem opcode_toNat (op : BitVec 5) (r : RegNum) : (op ++ r : Byte).toNat = 8 * op.toNat + r.toNat := by
  revert op r; decide

theorem wideOpcode_toNat (op : BitVec 3) (x y : BitVec 1) (r : RegNum) :
    (op ++ x ++ y ++ r : Byte).toNat = 32 * op.toNat + 16 * x.toNat + 8 * y.toNat + r.toNat := by
  revert op x y r; decide

section

variable (r : RegNum) (b2 : Byte)

theorem unassigned_oneByte : unassigned (0b00000#5 ++ r) b2 = decide (3 ≤ r.toNat) := by
  have hr := r.isLt
  simp only [unassigned, opcode_toNat]
  grind

theorem unassigned_arith : unassigned (0b00010#5 ++ r) b2 = (b2[4] || b2[3]) := by
  have hr := r.isLt
  simp only [unassigned, opcode_toNat]
  grind

theorem unassigned_testMul : unassigned (0b00011#5 ++ r) b2 = (!b2[7] && (b2[4] || b2[3])) := by
  have hr := r.isLt
  simp only [unassigned, opcode_toNat]
  grind

theorem unassigned_testBit (hb : b2[7] = false) : unassigned (0b00111#5 ++ r) b2 = b2[5] := by
  have hr := r.isLt
  have hq : b2.toNat < 0x80 := by revert b2; decide
  simp only [unassigned, opcode_toNat]
  grind

theorem unassigned_fx (hb : b2[7] = true) (hr : r ≠ 0) : unassigned (0b00111#5 ++ r) b2 = true := by
  have hr0 : 1 ≤ r.toNat := by revert r; decide
  have hr8 := r.isLt
  have hq : 0x80 ≤ b2.toNat := by revert b2; decide
  simp only [unassigned, opcode_toNat]
  grind

theorem unassigned_gap {op : BitVec 5} (h : op = 9 ∨ op = 10 ∨ op = 11) : unassigned (op ++ r) b2 = true := by
  have hr := r.isLt
  simp only [unassigned, opcode_toNat]
  obtain rfl | rfl | rfl := h <;> grind

/-- The rows without a must-be-zero bit: MOV to OR, the shifts, the bit changes and the quick group. -/
theorem unassigned_assigned {op : BitVec 5} (h : op ∈ [1, 4, 5, 6, 8]) : unassigned (op ++ r) b2 = false := by
  have hr := r.isLt
  have hop : op.toNat = 1 ∨ 4 ≤ op.toNat ∧ op.toNat ≤ 6 ∨ op.toNat = 8 := by revert op; decide
  simp only [unassigned, opcode_toNat]
  grind

theorem unassigned_mem {op : BitVec 3} (h : op = 3 ∨ op = 4) (x y : BitVec 1) :
    unassigned (op ++ x ++ y ++ r) b2 = (!x[0] && b2[7]) := by
  have hr := r.isLt
  have hx := x.isLt
  have hy := y.isLt
  have hop : op.toNat = 3 ∨ op.toNat = 4 := by revert op; decide
  have hind : (op ++ x ++ y ++ r : Byte).getLsbD 4 = x[0] := by simp
  simp only [unassigned, wideOpcode_toNat, hind]
  grind

theorem unassigned_const {op : BitVec 3} (h : op = 5 ∨ op = 6 ∨ op = 7) (x y : BitVec 1) :
    unassigned (op ++ x ++ y ++ r) b2 = false := by
  have hr := r.isLt
  have hop : 5 ≤ op.toNat := by revert op; decide
  simp only [unassigned, wideOpcode_toNat]
  grind

end

/-! ### Bits written back from their fields -/

@[simp] theorem Size.bit_ofBit (x : BitVec 1) : (Size.ofBit x[0]).bit = x := by revert x; decide

@[simp] theorem Direction.bit_ofBit (x : BitVec 1) : (Direction.ofBit x[0]).bit = x := by revert x; decide

@[simp] theorem bit1_of_getElem (x : BitVec 1) : bit1 x[0] = x := by revert x; decide

@[simp] theorem Special.num_ofNum (r : RegNum) : (Special.ofNum r).num = r := by revert r; decide

@[simp] theorem Cond.num_ofNum (r : BitVec 3) : (Cond.ofNum r).num = r := by revert r; decide

@[simp] theorem Operand.mode_ofBits (x : BitVec 1) (r : RegNum) : (Operand.ofBits x[0] r).mode = x := by
  revert x r; decide

@[simp] theorem Operand.num_ofBits (mode : Bool) (r : RegNum) : (Operand.ofBits mode r).num = r := by
  cases mode <;> simp [Operand.ofBits, Operand.num]

theorem encodeQuick_fields (op b2 : Byte) :
    encodeQuick op (Size.ofBit b2[3]) (lowReg b2) (highNibble b2) = [op, b2] := by
  obtain ⟨v, x, r, rfl⟩ := exists_quick_layout b2
  simp [encodeQuick]

/-! ### What the decoder may answer -/

/-- What the decoder answers for bytes that are to be refused or not: an instruction and the bytes after that
instruction's own encoding, only where they are not refused; a reject only where they are, or where fewer bytes are
left than the longest instruction has. -/
def ReadsBack (bytes : List Byte) (refused : Bool) : Except Reject (Instr × List Byte) → Prop
  | .ok (i, tail) => refused = false ∧ bytes = encode i ++ tail
  | .error _ => refused = true ∨ bytes.length < 4

theorem readsBack_ok {bytes tail : List Byte} {i : Instr} (h : bytes = encode i ++ tail) :
    ReadsBack bytes false (.ok (i, tail)) := ⟨rfl, h⟩

theorem readsBack_refused {bytes rest : List Byte} {e : Reject} {x : Except Reject Instr} (h : x = .error e) :
    ReadsBack bytes true (noMoreBytes rest x) := by
  rw [h]; exact .inl rfl

section

variable (r : RegNum) (b2 : Byte) (rest : List Byte)

/-! ### The rows without a byte after b2 -/

theorem readsBack_oneByte :
    ReadsBack ((0b00000#5 ++ r) :: rest) (decide (3 ≤ r.toNat)) (decode ((0b00000#5 ++ r) :: rest)) := by
  obtain rfl | rfl | rfl | rfl | rfl | rfl | rfl | rfl := regNum_cases r
  · exact readsBack_ok (i := .nop) rfl
  · exact readsBack_ok (i := .ret) rfl
  · exact readsBack_ok (i := .reti) rfl
  all_goals exact .inl rfl

theorem readsBack_logic :
    ReadsBack ((0b00001#5 ++ r) :: b2 :: rest) false (.ok (decodeLogic (0b00001#5 ++ r) b2, rest)) := by
  refine readsBack_ok ?_
  obtain ⟨o, x, y, z, r', rfl⟩ := exists_two_register_layout b2
  obtain rfl | rfl | rfl | rfl := two_bits_cases o <;> simp [decodeLogic, encode, encodeLogic]

theorem readsBack_arith : ReadsBack ((0b00010#5 ++ r) :: b2 :: rest) (b2[4] || b2[3])
    (noMoreBytes rest (decodeArith (0b00010#5 ++ r) b2)) := by
  cases h4 : b2[4] with
  | true => exact readsBack_refused (e := .mustBeZero) (by simp [decodeArith, h4])
  | false =>
    cases h3 : b2[3] with
    | true => exact readsBack_refused (e := .mustBeZero) (by simp [decodeArith, h3])
    | false =>
      obtain ⟨o, x, r', rfl⟩ := exists_arith_layout h4 h3
      obtain rfl | rfl | rfl | rfl := two_bits_cases o <;>
        simp [decodeArith, noMoreBytes, ReadsBack, encode, encodeArith]

theorem readsBack_testMul : ReadsBack ((0b00011#5 ++ r) :: b2 :: rest) (!b2[7] && (b2[4] || b2[3]))
    (noMoreBytes rest (decodeTestMul (0b00011#5 ++ r) b2)) := by
  cases h7 : b2[7] with
  | true =>
    obtain ⟨o, x, y, z, r', rfl⟩ := exists_two_register_layout b2
    obtain rfl | rfl | rfl | rfl := two_bits_cases o <;>
      simp [decodeTestMul, noMoreBytes, ReadsBack, encode, encodeMul] at h7 ⊢
  | false =>
    cases h4 : b2[4] with
    | true => exact readsBack_refused (e := .mustBeZero) (by simp [decodeTestMul, h7, h4])
    | false =>
      cases h3 : b2[3] with
      | true => exact readsBack_refused (e := .mustBeZero) (by simp [decodeTestMul, h7, h3])
      | false =>
        obtain ⟨o, x, r', rfl⟩ := exists_arith_layout h4 h3
        obtain rfl | rfl | rfl | rfl := two_bits_cases o <;>
          simp [decodeTestMul, noMoreBytes, ReadsBack, encode, encodeArith] at h7 ⊢

theorem readsBack_shift :
    ReadsBack ((0b00100#5 ++ r) :: b2 :: rest) false (.ok (decodeShift (0b00100#5 ++ r) b2, rest)) := by
  refine readsBack_ok ?_
  obtain ⟨w, o, x, y, z, r', rfl⟩ := exists_five_register_layout b2
  obtain rfl | rfl := o.eq_zero_or_eq_one <;> simp [decodeShift, encode, encodeShift]

theorem readsBack_shiftC :
    ReadsBack ((0b00101#5 ++ r) :: b2 :: rest) false (.ok (decodeShiftC (0b00101#5 ++ r) b2, rest)) := by
  refine readsBack_ok ?_
  obtain ⟨w, o, x, y, v, rfl⟩ := exists_four_nibble_layout b2
  obtain rfl | rfl := o.eq_zero_or_eq_one <;> simp [decodeShiftC, encode, encodeShiftC]

/-- Bit 6 of b2 tells a register index from a constant one. -/
theorem readsBack_bit :
    ReadsBack ((0b00110#5 ++ r) :: b2 :: rest) false (.ok (decodeBit (0b00110#5 ++ r) b2, rest)) := by
  refine readsBack_ok ?_
  cases h6 : b2[6] with
  | false =>
    obtain ⟨o, x, y, z, r', rfl⟩ := exists_two_register_layout b2
    obtain rfl | rfl | rfl | rfl := two_bits_cases o <;> simp [decodeBit, encode, encodeBit] at h6 ⊢
  | true =>
    obtain ⟨o, x, y, v, rfl⟩ := exists_two_nibble_layout b2
    obtain rfl | rfl | rfl | rfl := two_bits_cases o <;> simp [decodeBit, encode, encodeBitC] at h6 ⊢

theorem encode_of_decodeFx {b2 : Byte} {i : Instr} (h : decodeFx b2 = .ok i) : encode i = [0x38, b2] := by
  have hall : ∀ b : Byte, (decodeFx b).toOption.all (fun i => encode i == [0x38, b]) = true := by decide
  simpa [h, Except.toOption] using hall b2

theorem decodeFx_isOk : ∀ b2 : Byte, b2[7] = true → (decodeFx b2).isOk = !unassigned 0x38 b2 := by decide

/-- The FX group (R107, R116(c)). -/
theorem readsBack_fx (h7 : b2[7] = true) :
    ReadsBack (0x38 :: b2 :: rest) (unassigned 0x38 b2) (noMoreBytes rest (decodeFx b2)) := by
  have hok := decodeFx_isOk b2 h7
  cases hd : decodeFx b2 with
  | ok i =>
    have hassigned : unassigned 0x38 b2 = false := by simpa [hd, Except.isOk, Except.toBool] using hok.symm
    rw [hassigned]
    exact readsBack_ok (by rw [encode_of_decodeFx hd]; rfl)
  | error e =>
    have hunassigned : unassigned 0x38 b2 = true := by simpa [hd, Except.isOk, Except.toBool] using hok.symm
    exact .inl hunassigned

theorem readsBack_testBit : ReadsBack ((0b00111#5 ++ r) :: b2 :: rest) (unassigned (0b00111#5 ++ r) b2)
    (noMoreBytes rest (decodeTestBit (0b00111#5 ++ r) b2)) := by
  cases h7 : b2[7] with
  | true =>
    by_cases hr : r = 0#3
    · subst hr
      simpa [decodeTestBit, h7, lowReg] using readsBack_fx b2 rest h7
    · rw [unassigned_fx r b2 h7 hr]
      exact readsBack_refused (e := .unassignedSecondByte) (by simp [decodeTestBit, h7, hr])
  | false =>
    rw [unassigned_testBit r b2 h7]
    cases h5 : b2[5] with
    | true => exact readsBack_refused (e := .mustBeZero) (by simp [decodeTestBit, h7, h5])
    | false =>
      cases h6 : b2[6] with
      | false =>
        obtain ⟨x, y, r', rfl⟩ := exists_testb_layout h7 h6 h5
        simp [decodeTestBit, noMoreBytes, ReadsBack, encode]
      | true =>
        obtain ⟨x, v, rfl⟩ := exists_testbc_layout h7 h6 h5
        simp [decodeTestBit, noMoreBytes, ReadsBack, encode]

theorem readsBack_libcall (x : BitVec 2) :
    ReadsBack ((0b010001#6 ++ x) :: b2 :: rest) false (decode ((0b010001#6 ++ x) :: b2 :: rest)) := by
  obtain ⟨v, w, rfl⟩ := exists_nibbles_layout b2
  rw [decode_libcall]
  have hhigh : (x ++ w).extractLsb' 4 2 = x := BitVec.extractLsb'_append_eq_left
  have hlow : (x ++ w).extractLsb' 0 4 = w := BitVec.extractLsb'_append_eq_right
  exact readsBack_ok (by simp [encode, hhigh, hlow])

theorem readsBack_quick :
    ReadsBack ((0b01000#5 ++ r) :: b2 :: rest) false (decode ((0b01000#5 ++ r) :: b2 :: rest)) := by
  obtain rfl | rfl | rfl | rfl | rfl | rfl | rfl | rfl := regNum_cases r
  · exact readsBack_ok (i := .addq ..) (congrArg (· ++ rest) (encodeQuick_fields 0x40 b2).symm)
  · exact readsBack_ok (i := .subq ..) (congrArg (· ++ rest) (encodeQuick_fields 0x41 b2).symm)
  · exact readsBack_ok (i := .mulq ..) (congrArg (· ++ rest) (encodeQuick_fields 0x42 b2).symm)
  · cases rest with
    | nil => exact .inr (by simp)
    | cons b3 tail => exact readsBack_ok (i := .libcallx b2 b3) rfl
  · exact readsBack_libcall b2 rest 0
  · exact readsBack_libcall b2 rest 1
  · exact readsBack_libcall b2 rest 2
  · exact readsBack_libcall b2 rest 3

end

/-! ### The rows with bytes after b2 -/

theorem low_byte_append (a b : Byte) : (a ++ b : Word).extractLsb' 0 8 = b := BitVec.extractLsb'_append_eq_right

theorem high_byte_append (a b : Byte) : (a ++ b : Word).extractLsb' 8 8 = a := BitVec.extractLsb'_append_eq_left

/-- The index bytes are those of the index read, or C = 1 without an index, or there are too few. -/
theorem decodeIndex_cases (x l : BitVec 1) (rest : List Byte) :
    (∃ idx tail, decodeIndex x[0] l[0] rest = .ok (idx, tail) ∧ (!x[0] && l[0]) = false ∧
      idx.encode.1 = x ∧ idx.encode.2.1 = l ∧ rest = idx.encode.2.2 ++ tail) ∨
    ∃ e, decodeIndex x[0] l[0] rest = .error e ∧ ((!x[0] && l[0]) = true ∨ rest.length < 2) := by
  obtain rfl | rfl := x.eq_zero_or_eq_one <;> obtain rfl | rfl := l.eq_zero_or_eq_one
  · exact .inl ⟨.none, rest, rfl, rfl, rfl, rfl, rfl⟩
  · exact .inr ⟨_, rfl, .inl rfl⟩
  · match rest with
    | [] => exact .inr ⟨_, rfl, .inr (by decide)⟩
    | b3 :: tail => exact .inl ⟨.short b3, tail, rfl, rfl, rfl, rfl, rfl⟩
  · match rest with
    | [] | [_] => exact .inr ⟨_, rfl, .inr (by simp)⟩
    | b3 :: b4 :: tail =>
      refine .inl ⟨.long (b4 ++ b3), tail, rfl, rfl, rfl, rfl, ?_⟩
      simp [Index.encode, low_byte_append, high_byte_append]

/-- The bytes from b2 on are those of the constant read, or there are too few. -/
theorem decodeImm_cases (y : BitVec 1) (b2 : Byte) (rest : List Byte) :
    (∃ c tail, decodeImm y[0] b2 rest = .ok (c, tail) ∧ c.encode.1 = y ∧ b2 :: rest = c.encode.2 ++ tail) ∨
    ∃ e, decodeImm y[0] b2 rest = .error e ∧ rest = [] := by
  obtain rfl | rfl := y.eq_zero_or_eq_one
  · exact .inl ⟨.short b2, rest, rfl, rfl, rfl⟩
  · cases rest with
    | nil => exact .inr ⟨_, rfl, rfl⟩
    | cons b3 tail =>
      refine .inl ⟨.long (b3 ++ b2), tail, rfl, rfl, ?_⟩
      simp [Imm.encode, low_byte_append, high_byte_append]

section

variable {op : BitVec 3} (x y : BitVec 1) (r : RegNum) (b2 : Byte) (rest : List Byte)

theorem readsBack_mem (h : op = 3 ∨ op = 4) : ReadsBack ((op ++ x ++ y ++ r) :: b2 :: rest) (!x[0] && b2[7])
    (decodeMem (op == 4) (op ++ x ++ y ++ r) b2 rest) := by
  obtain ⟨l, dir, db, md, ms, r', rfl⟩ := exists_five_register_layout b2
  obtain ⟨idx, tail, hidx, hmbz, hind, hlong, rfl⟩ | ⟨e, hidx, hrefused⟩ := decodeIndex_cases x l rest
  · obtain rfl | rfl := h <;> obtain rfl | rfl := dir.eq_zero_or_eq_one <;>
      simpa [ReadsBack, decodeMem, hidx, encode, encodeMem, hind, hlong] using hmbz
  · have hshort : (!x[0] && l[0]) = true ∨ rest.length + 2 < 4 := hrefused.imp_right fun hlt => by omega
    simpa [ReadsBack, decodeMem, hidx] using hshort

theorem readsBack_const (h : op = 5 ∨ op = 6 ∨ op = 7) : ReadsBack ((op ++ x ++ y ++ r) :: b2 :: rest) false
    (decodeConst (op ++ x ++ y ++ r) b2 rest) := by
  obtain ⟨c, tail, hc, rfl, hbytes⟩ | ⟨e, hc, rfl⟩ := decodeImm_cases y b2 rest
  · obtain rfl | rfl | rfl := h <;> simp [ReadsBack, decodeConst, hc, encode, encodeConst, hbytes]
  · simp [ReadsBack, decodeConst, hc]

end

/-! ### All bytes -/

theorem decode_gap {op : BitVec 5} (h : op = 9 ∨ op = 10 ∨ op = 11) (r : RegNum) (rest : List Byte) :
    decode ((op ++ r) :: rest) = .error .unassignedFirstByte := by
  have hop : 9 ≤ op.toNat := by revert op; decide
  have hsecond : hasSecondByte (op ++ r) = false := by obtain rfl | rfl | rfl := h <;> simp
  have hge : ¬ (op ++ r : Byte).toNat < 0x08 := by rw [opcode_toNat]; omega
  simp [decode, hsecond, hge]

theorem decode_readsBack (b1 b2 : Byte) (rest : List Byte) :
    ReadsBack (b1 :: b2 :: rest) (unassigned b1 b2) (decode (b1 :: b2 :: rest)) := by
  cases firstByte b1 with
  | oneByte r => rw [unassigned_oneByte]; exact readsBack_oneByte r _
  | logic r => simpa [decodeTwo, unassigned_assigned] using readsBack_logic r b2 rest
  | arith r => simpa [decodeTwo, unassigned_arith] using readsBack_arith r b2 rest
  | testMul r => simpa [decodeTwo, unassigned_testMul] using readsBack_testMul r b2 rest
  | shift r => simpa [decodeTwo, unassigned_assigned] using readsBack_shift r b2 rest
  | shiftC r => simpa [decodeTwo, unassigned_assigned] using readsBack_shiftC r b2 rest
  | bit r => simpa [decodeTwo, unassigned_assigned] using readsBack_bit r b2 rest
  | testBit r => simpa [decodeTwo] using readsBack_testBit r b2 rest
  | quick r => rw [unassigned_assigned _ _ (by decide)]; exact readsBack_quick r b2 rest
  | gap op h r => rw [decode_gap h]; exact .inl (unassigned_gap r b2 h)
  | mem op h x y r =>
    have hsecond := hasSecondByte_wideOpcode op x y r (by revert op; decide)
    rw [unassigned_mem _ _ h, decode_cons_cons hsecond, decodeTwo_mem h]
    exact readsBack_mem x y r b2 rest h
  | const op h x y r =>
    have hsecond := hasSecondByte_wideOpcode op x y r (by revert op; decide)
    rw [unassigned_const _ _ h, decode_cons_cons hsecond, decodeTwo_const h]
    exact readsBack_const x y r b2 rest h

theorem decode_single {b1 : Byte} {i : Instr} {tail : List Byte} (h : decode [b1] = .ok (i, tail)) :
    [b1] = encode i ++ tail := by
  have hall : ∀ b : Byte, (decode [b]).toOption.all (fun p => [b] == encode p.1 ++ p.2) = true := by decide
  simpa [h, Except.toOption] using hall b1

/-- Settles O2: of two bytes or more by the rows of the first byte; one byte alone has only 256 cases. -/
theorem encodeDecode : Obligations.EncodeDecode := by
  intro bs rest i h
  match bs with
  | [] => cases h
  | [b1] => exact decode_single h
  | b1 :: b2 :: more =>
    have hread := decode_readsBack b1 b2 more
    rw [h] at hread
    obtain ⟨-, hbytes⟩ := hread
    exact hbytes

/-- Settles O5: four bytes are enough for every instruction, so the decoder rejects exactly what it is to refuse. -/
theorem unassignedRejected : Obligations.UnassignedRejected := by
  intro b1 b2 b3 b4
  have hread := decode_readsBack b1 b2 [b3, b4]
  cases hd : decode [b1, b2, b3, b4] with
  | ok p =>
    rw [hd] at hread
    obtain ⟨hassigned, -⟩ := hread
    simp [hassigned]
  | error e =>
    rw [hd] at hread
    have hrefused : unassigned b1 b2 = true := hread.resolve_right (by simp)
    simp [hrefused]

end Sys2Proof

/-! PROOFS. Reserved field values and forms closed to user mode raise BadInstr (30_encoding.md R118, 60_exceptions.md
R281). -/

namespace Sys2Proof.Machine

/-! ### Operand checks as the fields and the mode decide them (R118(a), R281(b)) -/

theorem State.operandOk_dest_eq (s : State) (sz : Size) (o : Operand) :
    s.operandOk .dest sz o = (o.destWf sz && (s.ps.m || !o.isPs)) := by
  cases o with
  | gp n => simp [State.operandOk, Operand.destWf, Operand.sized, Operand.notCm, Operand.isPs]
  | special r => cases r <;> simp [State.operandOk, Operand.destWf, Operand.sized, Operand.notCm, Operand.isPs]

theorem State.operandOk_source_eq (s : State) (sz : Size) (o : Operand) :
    s.operandOk .source sz o = (o.sized sz && (s.ps.m || !o.isPs)) := by
  cases o with
  | gp n => simp [State.operandOk, Operand.sized, Operand.isPs]
  | special r => cases r <;> simp [State.operandOk, Operand.sized, Operand.isPs]

/-- The size TESTBC takes from its target fits whenever the register exists (43_bit.md R206). -/
theorem operand_sized_ownSize (o : Operand) : o.sized o.ownSize = o.exists := by
  cases o with
  | gp n => rfl
  | special r => cases r <;> rfl

theorem State.base_not_baseWf (s : State) {db : Size} {o : Operand} (h : o.baseWf db = false) :
    s.base db o = .error (.raise .badInstr) := by
  cases o with
  | gp n => cases h
  | special r => cases r <;> cases db <;> simp [State.base, Operand.baseWf] at h ⊢

/-! ### An instruction that begins with a check -/

/-- If an instruction raises `e` whenever its first check passes, and the check raises `e`, it raises `e`. -/
theorem State.finish_need_bind {s : State} {e : Exc} {b : Bool} {f : Unit → Try State}
    (h : b = true → s.finish (f ()) = s.raise e) : s.finish (need e b >>= f) = s.raise e := by
  cases b with
  | false => rfl
  | true => exact h rfl

theorem State.finish_need_false {s : State} {e : Exc} {b : Bool} {f : Unit → Try State} (h : b = false) :
    s.finish (need e b >>= f) = s.raise e :=
  State.finish_need_bind fun hb => absurd (hb.symm.trans h) (by decide)

theorem State.finish_raise_bind {s : State} {e : Exc} {α : Type} {x : Try α} {f : α → Try State}
    (h : x = .error (.raise e)) : s.finish (x >>= f) = s.raise e := by
  rw [h]; rfl

/-- Settles O6: the first checks of each form are the reserved values of R118 and the closed forms of R281, and each
raises BadInstr. -/
theorem reservedFormsRaise : Obligations.ReservedFormsRaise := by
  intro i s h
  cases i with
  | mov sz d r | xor sz d r | and sz d r | or sz d r =>
    have hok : (s.operandOk .dest sz d && s.operandOk .source sz r) = false := by
      rw [State.operandOk_dest_eq, State.operandOk_source_eq]
      simp only [Instr.allowed, Instr.wellFormed, Instr.privileged] at h
      grind
    exact State.finish_need_false hok
  | movc | clrb | clrbc | setb | setbc => exact State.finish_need_false ((s.operandOk_dest_eq ..).trans h)
  | testb | testc => exact State.finish_need_false ((s.operandOk_source_eq ..).trans h)
  | testbc d =>
    have hok : s.operandOk .source d.ownSize d = false := by
      rw [State.operandOk_source_eq, operand_sized_ownSize]
      exact h
    exact State.finish_need_false hok
  | mul sd wide | div sd wide =>
    have hwide : wideWf sd wide = false := by simpa [Instr.allowed, Instr.wellFormed, Instr.privileged] using h
    exact State.finish_need_false hwide
  | bcc _ cc =>
    have hcc : decide (cc ≠ .reserved) = false := by
      simpa [Instr.allowed, Instr.wellFormed, Instr.privileged] using h
    exact State.finish_need_false hcc
  | reti =>
    have hm : s.ps.m = false := by simpa [Instr.allowed, Instr.wellFormed, Instr.privileged] using h
    exact State.finish_need_false hm
  | load sz d db base | store sz d db base =>
    refine State.finish_need_bind fun hd => State.finish_raise_bind (s.base_not_baseWf ?_)
    simp only [State.operandOk_dest_eq, State.operandOk_source_eq] at hd
    simp only [Instr.allowed, Instr.wellFormed, Instr.privileged] at h
    grind
  | ioctlIn sz d db base | ioctlOut sz d db base =>
    refine State.finish_need_bind fun hm => ?_
    cases base with
    | special r => rfl
    | gp n =>
      refine State.finish_need_false ?_
      simpa [State.operandOk_dest_eq, State.operandOk_source_eq, hm, Instr.allowed, Instr.wellFormed,
        Operand.portWf] using h
  | _ => simp [Instr.allowed, Instr.wellFormed, Instr.privileged] at h

end Sys2Proof.Machine

/-! PROOFS. Move and logic instructions (40_move_logic.md R140 to R147): what reading and writing an operand is to the
claims, and one equation for each instruction whose form is allowed. -/

namespace Sys2Proof.Machine

/-! ### Operands as the claims read them (10_state.md R22, R27, R33, R35, R36) -/

theorem Flags.toByte_setWidth (f : Flags) (sz : Size) :
    (f.toByte.setWidth 16).setWidth sz.bits =
      BitVec.ofNat sz.bits (f.z.toNat + 2 * f.c.toNat + 4 * f.n.toNat + 8 * f.v.toNat) := by
  obtain ⟨z, c, n, v⟩ := f
  cases sz <;> revert z c n v <;> decide

theorem Status.toByte_setWidth (p : Status) (sz : Size) :
    (p.toByte.setWidth 16).setWidth sz.bits =
      BitVec.ofNat sz.bits (p.m.toNat + 2 * p.t.toNat + 4 * p.i.toNat + 8 * p.b.toNat + 16 * p.sm.toNat) := by
  obtain ⟨m, t, i, b, sm⟩ := p
  cases sz <;> revert m t i b sm <;> decide

theorem State.sp_eq_ite (s : State) : s.sp = if s.ps.m then s.ssp else s.usp := by
  cases hm : s.ps.m with
  | true => exact State.sp_supervisor hm
  | false => exact State.sp_user hm

theorem operandValue_eq (s : State) (next : Word) (sz : Size) (o : Operand) :
    OperandValue s next sz o = s.operand next sz o := by
  cases o with
  | gp n => exact gpValue_eq s n sz
  | special r =>
    cases r with
    | sp => exact congrArg (BitVec.setWidth sz.bits) s.sp_eq_ite.symm
    | as => exact (s.flags.toByte_setWidth sz).symm
    | ps => exact (s.ps.toByte_setWidth sz).symm
    | cm => cases sz <;> simp [OperandValue, State.operand, State.special]
    | reserved => simp [OperandValue, State.operand, State.special]
    | pc | usp | fp => rfl

/-- A write through 16 bits to the 8-bit AS keeps the bits AS has (R27). -/
theorem Flags.ofByte_setWidth {sz : Size} (v : BitVec sz.bits) :
    Flags.ofByte ((v.setWidth 16).setWidth 8) =
      ⟨v.getLsbD 0, v.getLsbD 1, v.getLsbD 2, v.getLsbD 3⟩ := by
  simp [Flags.ofByte]

/-- The same of PS (R35). -/
theorem Status.ofByte_setWidth {sz : Size} (v : BitVec sz.bits) :
    Status.ofByte ((v.setWidth 16).setWidth 8) =
      ⟨v.getLsbD 0, v.getLsbD 1, v.getLsbD 2, v.getLsbD 3, v.getLsbD 4⟩ := by
  simp [Status.ofByte]

/-- Writing to an operand without a reserved value: of the special registers, CM and number 7 are none (R36). -/
theorem State.wroteOperand_writeOperand (s : State) (next : Word) {sz : Size} (v : BitVec sz.bits) {d : Operand}
    (hd : d.destWf sz = true) : WroteOperand s (s.writeOperand next sz v d) next sz v d := by
  cases d with
  | gp n => exact ⟨holdsReg_setGp rfl sz n v, State.setGp_eq ..⟩
  | special r =>
    cases r with
    | sp =>
      have hwrite : s.writeOperand next sz v (.special .sp) = (s.setPc next).setSp s.curStack (v.setWidth 16) := rfl
      rw [hwrite, WroteOperand]
      cases hm : s.ps.m with
      | true => rw [State.curStack_supervisor hm]; rfl
      | false => rw [State.curStack_user hm]; rfl
    | as => exact congrArg (s.setPc next).setFlags (Flags.ofByte_setWidth v)
    | ps => exact congrArg (s.setPc next).setPs (Status.ofByte_setWidth v)
    | cm | reserved => simp [Operand.destWf, Operand.sized, Operand.notCm, Special.size] at hd
    | pc | usp | fp => rfl

/-! ### MOV, XOR, AND and OR: one check for all four (R140) -/

section

variable {s : State} {sz : Size} {d r : Operand}

theorem Instr.mov_allowed {m : Bool} : (Instr.mov sz d r).allowed m = true ↔
    (d.destWf sz = true ∧ r.sized sz = true) ∧ (m || !(d.isPs || r.isPs)) = true := by
  simp only [Instr.allowed, Instr.wellFormed, Instr.privileged, Bool.and_eq_true]

theorem Instr.destWf_of_mov_allowed {m : Bool} (h : (Instr.mov sz d r).allowed m = true) : d.destWf sz = true := by
  obtain ⟨⟨hd, -⟩, -⟩ := Instr.mov_allowed.mp h
  exact hd

theorem State.checkFrr_allowed (h : (Instr.mov sz d r).allowed s.ps.m = true) : s.checkFrr sz d r = .ok () := by
  obtain ⟨⟨hd, hr⟩, hmode⟩ := Instr.mov_allowed.mp h
  simp only [State.checkFrr, need_ok, State.operandOk_dest_eq, State.operandOk_source_eq]
  grind

theorem exec_mov (h : (Instr.mov sz d r).allowed s.ps.m = true) :
    exec (.mov sz d r) s = .next (s.writeOperand (s.nextPc 2) sz (s.operand (s.nextPc 2) sz r) d) := by
  simp only [exec, execMov, State.checkFrr_allowed h, try_ok_bind, State.finish_ok]

/-- XOR, AND and OR differ in the result alone: this is the state they end in. -/
def State.afterLogic (s : State) (sz : Size) (v : BitVec sz.bits) (d : Operand) : State :=
  (s.writeOperand (s.nextPc 2) sz v d).setZNUnlessAs d v

theorem exec_xor (h : (Instr.xor sz d r).allowed s.ps.m = true) : exec (.xor sz d r) s =
    .next (s.afterLogic sz (s.operand (s.nextPc 2) sz d ^^^ s.operand (s.nextPc 2) sz r) d) := by
  simp only [exec, execXor, State.checkFrr_allowed h, try_ok_bind, State.finish_ok, State.afterLogic]

theorem exec_and (h : (Instr.and sz d r).allowed s.ps.m = true) : exec (.and sz d r) s =
    .next (s.afterLogic sz (s.operand (s.nextPc 2) sz d &&& s.operand (s.nextPc 2) sz r) d) := by
  simp only [exec, execAnd, State.checkFrr_allowed h, try_ok_bind, State.finish_ok, State.afterLogic]

theorem exec_or (h : (Instr.or sz d r).allowed s.ps.m = true) : exec (.or sz d r) s =
    .next (s.afterLogic sz (s.operand (s.nextPc 2) sz d ||| s.operand (s.nextPc 2) sz r) d) := by
  simp only [exec, execOr, State.checkFrr_allowed h, try_ok_bind, State.finish_ok, State.afterLogic]

end

/-! ### MOVC (R145) -/

theorem exec_movc {s : State} {d : Operand} {c : Imm} (h : (Instr.movc d c).allowed s.ps.m = true) :
    exec (.movc d c) s = .next (s.writeOperand (s.nextPc (1 + c.bytes)) c.size c.value d) := by
  have hok : s.operandOk .dest c.size d = true := (s.operandOk_dest_eq ..).trans h
  simp only [exec, execMovc, hok, need_true, try_ok_bind, State.finish_ok]

/-- Settles O24: both end in a write to their destination operand. -/
theorem moveCompletes : Obligations.MoveCompletes := by
  refine ⟨fun sz d r s h => ?_, fun d c s h => ?_⟩
  · rw [operandValue_eq]
    exact ⟨_, exec_mov h, s.wroteOperand_writeOperand _ _ (Instr.destWf_of_mov_allowed h)⟩
  · obtain ⟨hd, -⟩ := (Bool.and_eq_true ..).mp h
    rw [encode_length]
    exact ⟨_, exec_movc h, s.wroteOperand_writeOperand _ _ hd⟩

/-! ### The flags of XOR, AND and OR (R142 to R144, 10_state.md R28, R29) -/

@[simp] theorem State.setSp_flags (s : State) (k : StackId) (v : Word) : (s.setSp k v).flags = s.flags := by
  cases k <;> rfl

/-- AS as an operand is the one write that touches the flags (R28). -/
theorem State.writeOperand_flags (s : State) (next : Word) (sz : Size) (v : BitVec sz.bits) {d : Operand}
    (h : d ≠ .special .as) : (s.writeOperand next sz v d).flags = s.flags := by
  cases d with
  | gp n => exact State.setGp_flags ..
  | special r =>
    cases r with
    | as => exact absurd rfl h
    | sp => exact State.setSp_flags (s.setPc next) ..
    | pc | usp | fp | ps | cm | reserved => rfl

theorem Operand.isAs_eq_false {d : Operand} (h : d ≠ .special .as) : d.isAs = false := by
  cases d with
  | gp n => rfl
  | special r =>
    cases r with
    | as => exact absurd rfl h
    | _ => rfl

theorem znOf_setZN {s u : State} (hu : u.flags = s.flags) {w : Nat} (v : BitVec w) :
    ZNOf s (u.setFlags (u.flags.setZN v)) v :=
  ⟨by simp [Flags.setZN], rfl, by rw [← hu]; rfl, by rw [← hu]; rfl⟩

/-- What the claim asks of XOR, AND and OR, for any instruction that ends in their state. -/
theorem wrote_of_afterLogic {i : Instr} {s : State} {sz : Size} {v : BitVec sz.bits} {d : Operand}
    (hd : d.destWf sz = true) (hi : exec i s = .next (s.afterLogic sz v d)) :
    ∃ u t, exec i s = .next t ∧ WroteOperand s u (s.pc + 2) sz v d ∧
      (d = .special .as → t = u) ∧ (d ≠ .special .as → t = { u with flags := t.flags } ∧ ZNOf s t v) := by
  refine ⟨_, _, hi, s.wroteOperand_writeOperand _ v hd, ?_, fun hne => ?_⟩
  · rintro rfl
    rfl
  · simp only [State.afterLogic, State.setZNUnlessAs, Operand.isAs_eq_false hne]
    exact ⟨rfl, znOf_setZN (s.writeOperand_flags _ _ _ hne) v⟩

/-- Settles O25: the three end in one state but for the result they write there. -/
theorem logicCompletes : Obligations.LogicCompletes := by
  intro sz d r s
  simp only [operandValue_eq]
  exact ⟨fun h => wrote_of_afterLogic (Instr.destWf_of_mov_allowed h) (exec_xor h),
    fun h => wrote_of_afterLogic (Instr.destWf_of_mov_allowed h) (exec_and h),
    fun h => wrote_of_afterLogic (Instr.destWf_of_mov_allowed h) (exec_or h)⟩

/-! ### Pairs: two are the same or disjoint (10_state.md R22) -/

theorem evenReg_ne_oddReg_of (n k : RegNum) : evenReg n ≠ oddReg k := by revert n k; decide

theorem oddReg_inj {n k : RegNum} : oddReg n = oddReg k ↔ evenReg n = evenReg k := by revert n k; decide

theorem State.pair_congr (s : State) {n k : RegNum} (h : evenReg n = evenReg k) : s.pair n = s.pair k := by
  rw [State.pair, State.pair, h, oddReg_inj.mpr h]

theorem State.pair_setPair_other (s : State) {n k : RegNum} (v : Word) (h : evenReg k ≠ evenReg n) :
    (s.setPair n v).pair k = s.pair k := by
  have hodd : oddReg k ≠ oddReg n := mt oddReg_inj.mp h
  simp [State.pair, State.reg_setPair, h, hodd, evenReg_ne_oddReg_of, (evenReg_ne_oddReg_of _ _).symm]

/-- A pair write leaves the registers outside the pair alone. -/
theorem State.reg_setPair_other (s : State) {n k : RegNum} (v : Word) (h : ¬ covers n .word k) :
    (s.setPair n v).reg k = s.reg k :=
  s.reg_setGp_other (sz := .word) v h

/-! ### SWAP (R146) -/

/-- The exchange of two pairs, in one state: also right when both numbers name one pair. -/
def State.swapPairs (s : State) (n k : RegNum) : State := (s.setPair n (s.pair k)).setPair k (s.pair n)

theorem State.swapPairs_left (s : State) (n k : RegNum) : (s.swapPairs n k).pair n = s.pair k := by
  by_cases h : evenReg n = evenReg k
  · rw [State.pair_congr _ h, State.swapPairs, State.pair_setPair, State.pair_congr _ h]
  · rw [State.swapPairs, State.pair_setPair_other _ _ h, State.pair_setPair]

theorem State.swapPairs_right (s : State) (n k : RegNum) : (s.swapPairs n k).pair k = s.pair n :=
  State.pair_setPair ..

theorem State.swapPairs_other (s : State) {n k j : RegNum} (hn : ¬ covers n .word j) (hk : ¬ covers k .word j) :
    (s.swapPairs n k).reg j = s.reg j :=
  (State.reg_setPair_other _ _ hk).trans (State.reg_setPair_other _ _ hn)

theorem exec_swap_byte (rd rs : RegNum) (s : State) :
    exec (.swap .byte rd rs) s = .next ((s.setPc (s.nextPc 2)).setReg rd (swapNibbles (s.reg rs))) := rfl

theorem exec_swap_word (rd rs : RegNum) (s : State) :
    exec (.swap .word rd rs) s = .next ((s.setPc (s.nextPc 2)).swapPairs rd rs) := rfl

theorem swapNibbles_low (v : Byte) : (swapNibbles v).extractLsb' 0 4 = v.extractLsb' 4 4 := by revert v; decide

theorem swapNibbles_high (v : Byte) : (swapNibbles v).extractLsb' 4 4 = v.extractLsb' 0 4 := by revert v; decide

/-! ### SEXT (R147) -/

theorem State.setReg_reg (s : State) (n : RegNum) : s.setReg n (s.reg n) = s := by
  simp [State.setReg, State.reg, State.setRegs]

theorem signExtend_low (v : Byte) : (v.signExtend 16).extractLsb' 0 8 = v := by revert v; decide

theorem signExtend_high (v : Byte) : (v.signExtend 16).extractLsb' 8 8 = if v.msb then 0xFF else 0x00 := by
  revert v; decide

/-- Writing the sign to the odd register is writing the sign extension to the pair: its low byte is the even register's
own value. -/
theorem State.setPair_signExtend (s : State) (n : RegNum) :
    s.setPair n ((s.reg (evenReg n)).signExtend 16) =
      s.setReg (oddReg n) (if (s.reg (evenReg n)).msb then 0xFF else 0x00) := by
  rw [State.setPair, signExtend_low, signExtend_high, State.setReg_reg]

theorem exec_sext (rd : RegNum) (s : State) : exec (.sext rd) s =
    .next ((s.setPc (s.nextPc 2)).setGp rd .word ((s.reg (evenReg rd)).signExtend 16)) := by
  rw [← State.setPc_reg s (s.nextPc 2), State.setGp, State.setPair_signExtend]
  rfl

/-- An instruction that writes one register or pair and moves PC past itself. -/
theorem State.wroteReg_setGp (s : State) (sz : Size) (n : RegNum) (len : Nat) (v : BitVec sz.bits) :
    WroteReg s ((s.setPc (s.nextPc len)).setGp n sz v) sz n len v :=
  ⟨holdsReg_setGp rfl sz n v, by cases sz <;> rfl⟩

/-- Settles O26: SWAP of bytes and SEXT write one register or pair, SWAP of words exchanges two pairs. -/
theorem swapSextCompletes : Obligations.SwapSextCompletes := by
  intro rd rs s
  simp only [gpValue_eq]
  refine ⟨?_, ?_, ?_⟩
  · exact ⟨_, _, exec_swap_byte rd rs s, s.wroteReg_setGp .byte rd 2 _, rfl, swapNibbles_low _, swapNibbles_high _⟩
  · exact ⟨_, exec_swap_word rd rs s, rfl, State.swapPairs_left .., State.swapPairs_right ..,
      fun k hd hs => State.swapPairs_other _ hd hs⟩
  · exact ⟨_, exec_sext rd s, s.wroteReg_setGp .word rd 2 _, rfl⟩

end Sys2Proof.Machine

/-! PROOFS. Arithmetic instructions (41_arithmetic.md R160 to R173): what the flags of a sum and of a difference say of
the exact value, and from it what each instruction leaves in its destination and in AS. -/

namespace Sys2Proof.Machine

/-! ### Sums and differences of every width (10_state.md R30, R31, 41_arithmetic.md R173) -/

section

variable {w : Nat}

theorem int_two_pow (n : Nat) : (2 : Int) ^ n = ((2 ^ n : Nat) : Int) := by norm_cast

theorem two_pow_eq_double (hw : 0 < w) : 2 ^ w = 2 * 2 ^ (w - 1) := by
  rw [Nat.mul_comm, Nat.two_pow_pred_mul_two hw]

/-- The signed value by the top bit: the unsigned one, less 2^w when the bit is set. -/
theorem toInt_by_msb (hw : 0 < w) (a : BitVec w) :
    (a.msb = false ∧ a.toInt = a.toNat ∧ a.toNat < 2 ^ (w - 1)) ∨
    (a.msb = true ∧ a.toInt = a.toNat - 2 * (2 ^ (w - 1) : Nat) ∧ 2 ^ (w - 1) ≤ a.toNat ∧
      a.toNat < 2 * 2 ^ (w - 1)) := by
  have hlt := a.isLt
  have hint := a.toInt_eq_msb_cond
  have hmsb := a.msb_eq_decide
  rw [two_pow_eq_double hw] at hlt hint
  cases h : a.msb with
  | false =>
    rw [h] at hint hmsb
    exact .inl ⟨rfl, by simpa using hint, by simpa using hmsb⟩
  | true =>
    rw [h] at hint hmsb
    exact .inr ⟨rfl, by simpa using hint, by simpa using hmsb, hlt⟩

/-- C and the result together are the exact sum (R173(a)). -/
theorem addFlags_exact (a b : BitVec w) (c : Bool) :
    (addFlags a b c).1.toNat + (addFlags a b c).2.c.toNat * 2 ^ w = a.toNat + b.toNat + c.toNat := by
  have ha := a.isLt
  have hb := b.isLt
  have hc := c.toNat_le
  simp only [addFlags, BitVec.toNat_ofNat]
  by_cases h : 2 ^ w ≤ a.toNat + b.toNat + c.toNat
  · rw [Nat.mod_eq_sub_mod h, Nat.mod_eq_of_lt (by omega), decide_eq_true h]
    simp only [Bool.toNat_true]
    omega
  · rw [Nat.mod_eq_of_lt (by omega), decide_eq_false h]
    simp

/-- The result less the borrow C is the exact difference (R173(b)). -/
theorem subFlags_exact (x y : BitVec w) (c : Bool) :
    ((subFlags x y c).1.toNat : Int) - ((subFlags x y c).2.c.toNat : Int) * 2 ^ w =
      (x.toNat : Int) - (y.toNat : Int) - (c.toNat : Int) := by
  have hx := x.isLt
  have hy := y.isLt
  have hc := c.toNat_le
  simp only [subFlags, BitVec.toNat_ofInt, int_two_pow]
  generalize 2 ^ w = m at hx hy ⊢
  by_cases h : (x.toNat : Int) - y.toNat - c.toNat < 0
  · rw [← Int.add_emod_right, Int.emod_eq_of_lt (by omega) (by omega), decide_eq_true h, Int.toNat_of_nonneg (by omega)]
    simp
  · rw [Int.emod_eq_of_lt (by omega) (by omega), decide_eq_false h, Int.toNat_of_nonneg (by omega)]
    simp

/-- V by the three top bits is a signed sum out of range: by C and the top bits, which fix the signed values, the exact
sum leaves linear arithmetic (R173(c)). -/
theorem sumFlags_addFlags (hw : 0 < w) (a b : BitVec w) (c : Bool) :
    SumFlags (addFlags a b c).2 a b c (addFlags a b c).1 := by
  have hsum := addFlags_exact a b c
  refine ⟨hsum, by simp [addFlags], rfl, ?_⟩
  have hv : (addFlags a b c).2.v = ((a.msb == b.msb) && ((addFlags a b c).1.msb != a.msb)) := rfl
  have ha := toInt_by_msb hw a
  have hb := toInt_by_msb hw b
  have hr := toInt_by_msb hw (addFlags a b c).1
  have hc := c.toNat_le
  rw [hv, int_two_pow]
  rw [two_pow_eq_double hw] at hsum
  generalize 2 ^ (w - 1) = half at ha hb hr hsum ⊢
  generalize (addFlags a b c).2.c = carry at hsum
  generalize (addFlags a b c).1 = r at hr hsum ⊢
  cases carry with
  | false | true =>
    simp only [Bool.toNat_true, Bool.toNat_false] at hsum
    grind

/-- The same of a signed difference and its borrow (R173(c)). -/
theorem diffFlags_subFlags (hw : 0 < w) (x y : BitVec w) (c : Bool) :
    DiffFlags (subFlags x y c).2 x y c (subFlags x y c).1 := by
  have hdiff := subFlags_exact x y c
  refine ⟨hdiff, by simp [subFlags], rfl, ?_⟩
  have hv : (subFlags x y c).2.v = ((x.msb != y.msb) && ((subFlags x y c).1.msb != x.msb)) := rfl
  have hx := toInt_by_msb hw x
  have hy := toInt_by_msb hw y
  have hr := toInt_by_msb hw (subFlags x y c).1
  have hc := c.toNat_le
  rw [hv, int_two_pow]
  rw [int_two_pow, two_pow_eq_double hw] at hdiff
  generalize 2 ^ (w - 1) = half at hx hy hr hdiff ⊢
  generalize (subFlags x y c).2.c = borrow at hdiff
  generalize (subFlags x y c).1 = r at hr hdiff ⊢
  cases borrow with
  | false | true =>
    simp only [Bool.toNat_true, Bool.toNat_false] at hdiff
    grind

end

/-! ### The end of an arithmetic instruction (R161 to R172) -/

theorem size_bits_pos (sz : Size) : 0 < sz.bits := by cases sz <;> decide

theorem wroteReg_setFlags {s t : State} {sz : Size} {rd : RegNum} {len : Nat} {v : BitVec sz.bits} (f : Flags)
    (h : WroteReg s t sz rd len v) : WroteReg s (t.setFlags f) sz rd len v := by
  obtain ⟨⟨hval, hother⟩, hframe⟩ := h
  refine ⟨⟨?_, hother⟩, congrArg (State.setFlags · f) hframe⟩
  rwa [gpValue_eq, State.setFlags_gp, ← gpValue_eq]

theorem State.wroteReg_putResult (s : State) (sz : Size) (rd : RegNum) (len : Nat) (p : BitVec sz.bits × Flags) :
    WroteReg s (s.putResult sz rd len p) sz rd len p.1 :=
  wroteReg_setFlags p.2 (s.wroteReg_setGp sz rd len p.1)

theorem State.wroteReg_putResultZN (s : State) (sz : Size) (rd : RegNum) (len : Nat) (v : BitVec sz.bits) :
    WroteReg s (s.putResultZN sz rd len v) sz rd len v :=
  s.wroteReg_putResult sz rd len (v, s.flags.setZN v)

theorem State.znOf_putResultZN (s : State) (sz : Size) (rd : RegNum) (len : Nat) (v : BitVec sz.bits) :
    ZNOf s (s.putResultZN sz rd len v) v :=
  znOf_setZN (s := s) (u := s) rfl v

/-! ### ADD, ADDC and ADDQ (R161, R162, R168) -/

theorem literal_eq_ofNat (sz : Size) (val : BitVec 4) : literal sz val = BitVec.ofNat sz.bits val.toNat :=
  (BitVec.ofNat_toNat ..).symm

/-- What the claim asks of ADD, ADDC and ADDQ, for any instruction that ends in a sum. -/
theorem wrote_of_sum {i : Instr} {s : State} {sz : Size} {rd : RegNum} {a b : BitVec sz.bits} {c : Bool}
    (hi : exec i s = .next (s.putResult sz rd 2 (addFlags a b c))) :
    ∃ t r, exec i s = .next t ∧ WroteReg s t sz rd 2 r ∧ SumFlags t.flags a b c r :=
  ⟨_, _, hi, s.wroteReg_putResult .., sumFlags_addFlags (size_bits_pos sz) a b c⟩

/-- Settles O27: the three end in the sum of their operands, which the flags make exact. -/
theorem addFamilyCompletes : Obligations.AddFamilyCompletes := by
  refine ⟨fun sz rd rs s => ?_, fun sz rd rs s => ?_, fun sz rd val s => ?_⟩
  · simp only [gpValue_eq]
    exact wrote_of_sum rfl
  · simp only [gpValue_eq]
    exact wrote_of_sum rfl
  · rw [gpValue_eq, ← literal_eq_ofNat]
    exact wrote_of_sum rfl

/-! ### SUB, SUBB, SUBQ, TEST and TESTC (R160, R163 to R166, R169) -/

/-- The claims' order of the operands is the one the machine takes (R160). -/
theorem difference_eq {s : State} {w : Nat} {src dst x y : BitVec w} (h : InOrder s src dst x y) (c : Bool) :
    s.difference src dst c = subFlags x y c := by
  obtain ⟨hsrc, hdst⟩ := h
  cases ho : s.platform.subOrder with
  | srcMinusDst =>
    obtain ⟨rfl, rfl⟩ := hsrc ho
    simp only [State.difference, State.subOperands, ho]
  | dstMinusSrc =>
    obtain ⟨rfl, rfl⟩ := hdst ho
    simp only [State.difference, State.subOperands, ho]

theorem diffFlags_difference {s : State} {sz : Size} {src dst x y : BitVec sz.bits} (h : InOrder s src dst x y)
    (c : Bool) : DiffFlags (s.difference src dst c).2 x y c (s.difference src dst c).1 := by
  rw [difference_eq h]
  exact diffFlags_subFlags (size_bits_pos sz) x y c

/-- What the claim asks of SUB, SUBB and SUBQ, for any instruction that ends in a difference. -/
theorem wrote_of_difference {i : Instr} {s : State} {sz : Size} {rd : RegNum} {src dst x y : BitVec sz.bits} {c : Bool}
    (h : InOrder s src dst x y) (hi : exec i s = .next (s.putResult sz rd 2 (s.difference src dst c))) :
    ∃ t r, exec i s = .next t ∧ WroteReg s t sz rd 2 r ∧ DiffFlags t.flags x y c r :=
  ⟨_, _, hi, s.wroteReg_putResult .., diffFlags_difference h c⟩

/-- Settles O28: the three end in the difference of their operands, which the flags make exact. -/
theorem subFamilyCompletes : Obligations.SubFamilyCompletes := by
  refine ⟨fun sz rd rs s x y h => ?_, fun sz rd rs s x y h => ?_, fun sz rd val s x y h => ?_⟩
  · simp only [gpValue_eq] at h
    exact wrote_of_difference h rfl
  · simp only [gpValue_eq] at h
    exact wrote_of_difference h rfl
  · rw [gpValue_eq, ← literal_eq_ofNat] at h
    exact wrote_of_difference h rfl

theorem exec_testc {s : State} {d : Operand} {c : Imm} (h : (Instr.testc d c).allowed s.ps.m = true) :
    exec (.testc d c) s = .next ((s.setPc (s.nextPc (1 + c.bytes))).setFlags
      (s.difference c.value (s.operand (s.nextPc (1 + c.bytes)) c.size d) false).2) := by
  have hok : s.operandOk .source c.size d = true := (s.operandOk_source_eq ..).trans h
  simp only [exec, execTestc, hok, need_true, try_ok_bind, State.finish_ok]

/-- Settles O29: both end in the flags of a difference and in nothing else. -/
theorem testFamilyCompletes : Obligations.TestFamilyCompletes := by
  refine ⟨fun sz rd rs s x y h => ?_, fun d c s x y hallowed => ?_⟩
  · simp only [gpValue_eq] at h
    exact ⟨_, _, rfl, diffFlags_difference h false, rfl⟩
  · rw [encode_length]
    intro next h
    rw [operandValue_eq] at h
    exact ⟨_, _, exec_testc hallowed, diffFlags_difference h false, rfl⟩

/-! ### CMPL, MULQ and MUL (R167, R170, R172) -/

/-- What the claim asks of CMPL, MULQ and MUL, for any instruction that ends in a result with Z and N alone. -/
theorem wrote_of_putResultZN {i : Instr} {s : State} {sz : Size} {rd : RegNum} {v : BitVec sz.bits}
    (hi : exec i s = .next (s.putResultZN sz rd 2 v)) :
    ∃ t, exec i s = .next t ∧ WroteReg s t sz rd 2 v ∧ ZNOf s t v :=
  ⟨_, hi, s.wroteReg_putResultZN .., s.znOf_putResultZN ..⟩

/-- The same where the claim names the result first. -/
theorem wrote_result_of_putResultZN {i : Instr} {s : State} {sz : Size} {rd : RegNum} {v : BitVec sz.bits}
    (hi : exec i s = .next (s.putResultZN sz rd 2 v)) :
    ∃ t r, exec i s = .next t ∧ r = v ∧ WroteReg s t sz rd 2 r ∧ ZNOf s t r := by
  obtain ⟨t, ht, hwrote, hzn⟩ := wrote_of_putResultZN hi
  exact ⟨t, v, ht, rfl, hwrote, hzn⟩

theorem exec_cmpl (sz : Size) (rd : RegNum) (s : State) :
    exec (.cmpl sz rd) s = .next (s.putResultZN sz rd 2 (-(s.gp rd sz))) := by
  rw [BitVec.neg_eq_not_add, ← BitVec.xor_allOnes]
  rfl

/-- Settles O31: each ends in its result with Z and N. -/
theorem multiplyNegateCompletes : Obligations.MultiplyNegateCompletes := by
  simp only [Obligations.MultiplyNegateCompletes, gpValue_eq]
  exact ⟨fun sz rd s => wrote_of_putResultZN (exec_cmpl sz rd s), fun _ _ _ _ => wrote_result_of_putResultZN rfl,
    fun _ _ _ _ _ => wrote_result_of_putResultZN rfl, fun _ _ _ _ => wrote_result_of_putResultZN (sz := .word) rfl⟩

/-! ### DIV (R171) -/

/-- A pair write is a write of its two registers, the even one first. -/
theorem State.setPair_append (s : State) (n : RegNum) (high low : Byte) :
    s.setPair n (high ++ low) = (s.setReg (evenReg n) low).setReg (oddReg n) high := by
  rw [State.setPair, BitVec.extractLsb'_append_eq_right, BitVec.extractLsb'_append_eq_left]

section

variable {s : State} {sd ss : Size} {rd rs : RegNum}

theorem exec_div_zero {wide : Bool} (hw : wideWf sd wide = true) (hb : (s.gp rs ss).toNat = 0) :
    exec (.div sd wide ss rd rs) s = s.raise .divZero := by
  simp only [exec, execDiv, hw, hb, need_true, try_ok_bind]
  rfl

theorem exec_div_narrow (hb : (s.gp rs ss).toNat ≠ 0) : exec (.div sd false ss rd rs) s =
    .next (s.putResultZN sd rd 2 (BitVec.ofNat sd.bits ((s.gp rd sd).toNat / (s.gp rs ss).toNat))) := by
  have hw : wideWf sd false = true := rfl
  simp only [exec, execDiv, hw, decide_eq_true hb, need_true, try_ok_bind]
  rfl

theorem exec_div_wide (hb : (s.gp rs ss).toNat ≠ 0) :
    let q := BitVec.ofNat 8 ((s.gp rd .byte).toNat / (s.gp rs ss).toNat)
    exec (.div .byte true ss rd rs) s = .next (s.putResult .word rd 2
      (BitVec.ofNat 8 ((s.gp rd .byte).toNat % (s.gp rs ss).toNat) ++ q, s.flags.setZN q)) := by
  have hw : wideWf .byte true = true := rfl
  simp only [exec, execDiv, hw, decide_eq_true hb, need_true, try_ok_bind, State.putResult, State.setGp,
    State.setPair_append]
  rfl

end

/-- Settles O32: quotient and remainder are those of the unsigned values. -/
theorem divCompletes : Obligations.DivCompletes := by
  intro sd ss wide rd rs s hw
  simp only [gpValue_eq]
  refine ⟨exec_div_zero hw, fun hb => ?_⟩
  have hdiv : (s.gp rd sd).toNat =
      (s.gp rd sd).toNat / (s.gp rs ss).toNat * (s.gp rs ss).toNat + (s.gp rd sd).toNat % (s.gp rs ss).toNat :=
    (Nat.div_add_mod' ..).symm
  have hlt := Nat.mod_lt (s.gp rd sd).toNat (Nat.pos_of_ne_zero hb)
  cases wide with
  | false =>
    exact ⟨_, _, _, exec_div_narrow hb, hdiv, hlt, s.znOf_putResultZN .., fun _ => s.wroteReg_putResultZN .., nofun⟩
  | true =>
    cases sd with
    | byte =>
      exact ⟨_, _, _, exec_div_wide hb, hdiv, hlt, znOf_setZN (s := s) (u := s) rfl _, nofun,
        fun _ => s.wroteReg_putResult ..⟩
    | word => cases hw

/-! ### A chain of two ADDs (R173(d)) -/

theorem toNat_append_byte (high low : Byte) : (high ++ low : Word).toNat = 256 * high.toNat + low.toNat := by
  have h := Nat.shiftLeft_add_eq_or_of_lt low.isLt high.toNat
  rw [BitVec.toNat_append, ← h, Nat.shiftLeft_eq]
  omega

theorem msb_append_byte (high low : Byte) : (high ++ low : Word).msb = high.msb := BitVec.msb_append

/-- Adding the high bytes with the carry of the low ones gives the high byte and the C, N and V of the whole sum. -/
theorem addFlags_append (ah al bh bl : Byte) :
    let low := addFlags al bl false
    let high := addFlags ah bh low.2.c
    let whole := addFlags (ah ++ al : Word) (bh ++ bl : Word) false
    whole.1 = high.1 ++ low.1 ∧ whole.2.c = high.2.c ∧ whole.2.n = high.2.n ∧ whole.2.v = high.2.v := by
  intro low high whole
  have hlow : low.1.toNat + low.2.c.toNat * 2 ^ 8 = al.toNat + bl.toNat + 0 := addFlags_exact ..
  have hhigh : high.1.toNat + high.2.c.toNat * 2 ^ 8 = ah.toNat + bh.toNat + low.2.c.toNat := addFlags_exact ..
  have hwhole : whole.1.toNat + whole.2.c.toNat * 2 ^ 16 = (ah ++ al).toNat + (bh ++ bl).toNat + 0 :=
    addFlags_exact ..
  simp only [toNat_append_byte] at hwhole
  have hl := low.1.isLt
  have hh := high.1.isLt
  have hw := whole.1.isLt
  have hresult : whole.1 = high.1 ++ low.1 := by
    apply BitVec.eq_of_toNat_eq
    rw [toNat_append_byte]
    omega
  have hcarry : whole.2.c = high.2.c := by
    rw [← Bool.ofNat_toNat whole.2.c, ← Bool.ofNat_toNat high.2.c]
    congr 1
    omega
  have hmsb : whole.1.msb = high.1.msb := by rw [hresult, msb_append_byte]
  refine ⟨hresult, hcarry, hmsb, ?_⟩
  calc whole.2.v = (((ah ++ al).msb == (bh ++ bl).msb) && (whole.1.msb != (ah ++ al).msb)) := rfl
    _ = ((ah.msb == bh.msb) && (high.1.msb != ah.msb)) := by rw [hmsb, msb_append_byte, msb_append_byte]

/-- Settles O33: the ADDC reads the odd registers, and C, as the ADD of the even ones left them. -/
theorem addChain : Obligations.AddChain := by
  intro rd rs s
  obtain ⟨hresult, hc, hn, hv⟩ := addFlags_append (s.reg (oddReg rd)) (s.reg (evenReg rd)) (s.reg (oddReg rs))
    (s.reg (evenReg rs))
  let low := addFlags (s.reg (evenReg rd)) (s.reg (evenReg rs)) false
  let u := s.putResult .byte (evenReg rd) 2 low
  have hodd (k : RegNum) : u.reg (oddReg k) = s.reg (oddReg k) :=
    (State.reg_setReg ..).trans (if_neg (evenReg_ne_oddReg_of rd k).symm)
  have haddc : exec (.addc .byte (oddReg rd) (oddReg rs)) u = .next
      (u.putResult .byte (oddReg rd) 2 (addFlags (s.reg (oddReg rd)) (s.reg (oddReg rs)) low.2.c)) := by
    rw [← hodd rd, ← hodd rs]
    rfl
  have hregs := congrArg State.regs ((congrArg (s.setPair rd) hresult).trans (s.setPair_append rd _ low.1))
  exact ⟨_, u, _, rfl, rfl, haddc, hregs, hc, hn, hv⟩

end Sys2Proof.Machine

/-! PROOFS. Shift and rotate instructions (42_shift_rotate.md R190 to R194): the closed forms the instructions compute
are the iteration of the single step, for every width and every count. -/

namespace Sys2Proof.Machine

/-! ### A bit that enters at one end (R190) -/

section

variable {w : Nat}

/-- A 0 or a carry enters at bit 0: what every step to the left computes. -/
theorem ofNat_double_add (v : BitVec w) (b : Bool) :
    BitVec.ofNat w (v.toNat * 2 % 2 ^ w + b.toNat) = (v.concat b).setWidth w := by
  apply BitVec.eq_of_toNat_eq
  rw [BitVec.toNat_ofNat, BitVec.toNat_setWidth, BitVec.toNat_concat, Nat.mod_add_mod]

/-- A 0 or a carry enters at the top bit: what every step to the right computes. -/
theorem ofNat_half_add (hw : 0 < w) (v : BitVec w) (b : Bool) :
    BitVec.ofNat w (v.toNat / 2 + b.toNat * 2 ^ (w - 1)) = (BitVec.cons b v).extractLsb' 1 w := by
  apply BitVec.eq_of_toNat_eq
  have hhalf : (b.toNat * 2 ^ w + v.toNat) / 2 = v.toNat / 2 + b.toNat * 2 ^ (w - 1) := by
    rw [two_pow_eq_double hw, Nat.mul_left_comm, Nat.mul_add_div Nat.two_pos, Nat.add_comm]
  rw [BitVec.toNat_ofNat, BitVec.extractLsb'_toNat, BitVec.toNat_cons', Nat.shiftLeft_eq, Nat.shiftRight_eq_div_pow,
    Nat.pow_one, hhalf]

theorem ofNat_double (v : BitVec w) : BitVec.ofNat w (v.toNat * 2) = v <<< 1 := by
  apply BitVec.eq_of_toNat_eq
  rw [BitVec.toNat_ofNat, BitVec.toNat_shiftLeft, Nat.shiftLeft_eq, Nat.pow_one]

theorem ofNat_half (v : BitVec w) : BitVec.ofNat w (v.toNat / 2) = v >>> 1 := by
  have hlt := v.isLt
  apply BitVec.eq_of_toNat_eq
  rw [BitVec.toNat_ofNat, BitVec.toNat_ushiftRight, Nat.shiftRight_eq_div_pow, Nat.pow_one,
    Nat.mod_eq_of_lt (by omega)]

/-! ### Rotations (R190) -/

/-- Counted from the end the bits leave by, a rotation by n reads n places further, around the end. -/
theorem rotateLeft_rotateLeft (v : BitVec w) (m n : Nat) : (v.rotateLeft m).rotateLeft n = v.rotateLeft (m + n) := by
  apply BitVec.eq_of_getMsbD_eq
  intro i hi
  have hlt : (n + i) % w < w := Nat.mod_lt _ (by omega)
  simp [BitVec.getMsbD_rotateLeft, hi, hlt, Nat.add_assoc]

theorem getLsbD_rotateRight_of_lt_width (v : BitVec w) (n : Nat) {i : Nat} (hi : i < w) :
    (v.rotateRight n).getLsbD i = v.getLsbD ((n + i) % w) := by
  have hn : n % w < w := Nat.mod_lt _ (by omega)
  rw [BitVec.getLsbD_rotateRight, Nat.add_mod, Nat.mod_eq_of_lt hi]
  by_cases h : i < w - n % w
  · simp [h, Nat.mod_eq_of_lt (show n % w + i < w by omega)]
  · have hwrap : (n % w + i) % w = i - (w - n % w) := by
      rw [Nat.mod_eq_sub_mod (by omega), Nat.mod_eq_of_lt (by omega)]
      omega
    simp [h, hi, hwrap]

theorem rotateRight_rotateRight (v : BitVec w) (m n : Nat) :
    (v.rotateRight m).rotateRight n = v.rotateRight (m + n) := by
  apply BitVec.eq_of_getLsbD_eq
  intro i hi
  rw [getLsbD_rotateRight_of_lt_width _ _ hi, getLsbD_rotateRight_of_lt_width _ _ (Nat.mod_lt _ (by omega)),
    getLsbD_rotateRight_of_lt_width _ _ hi, Nat.add_mod_mod, Nat.add_assoc]

@[simp] theorem rotateLeft_zero (v : BitVec w) : v.rotateLeft 0 = v := by
  rw [BitVec.rotateLeft_def, Nat.zero_mod, BitVec.shiftLeft_zero, Nat.sub_zero,
    BitVec.ushiftRight_eq_zero (Nat.le_refl w), BitVec.or_zero]

@[simp] theorem rotateRight_zero (v : BitVec w) : v.rotateRight 0 = v := by
  rw [BitVec.rotateRight_def, Nat.zero_mod, BitVec.ushiftRight_zero, Nat.sub_zero,
    BitVec.shiftLeft_eq_zero (Nat.le_refl w), BitVec.or_zero]

/-- One place to the left: the top bit enters at bit 0. -/
theorem rotateLeft_one (v : BitVec w) : v.rotateLeft 1 = (v.concat v.msb).setWidth w := by
  apply BitVec.eq_of_getMsbD_eq
  intro i hi
  have henter : ((v.concat v.msb).setWidth w).getMsbD i = (v.concat v.msb).getMsbD (i + 1) := by
    simp [show i + (w + 1) - w = i + 1 by omega]
  rw [henter, BitVec.getMsbD_rotateLeft, Nat.add_comm 1]
  by_cases h : i + 1 = w
  · simp [h, hi, BitVec.msb_eq_getMsbD_zero]
  · have hlt : i + 1 < w := by omega
    simp [hi, hlt, Nat.mod_eq_of_lt]

/-- One place to the right: bit 0 enters at the top bit. -/
theorem rotateRight_one (v : BitVec w) :
    v.rotateRight 1 = (BitVec.cons (v.getLsbD 0) v).extractLsb' 1 w := by
  apply BitVec.eq_of_getLsbD_eq
  intro i hi
  rw [getLsbD_rotateRight_of_lt_width _ _ hi, BitVec.getLsbD_extractLsb', BitVec.getLsbD_cons]
  by_cases h : 1 + i = w
  · simp [h, hi]
  · simp [h, hi, Nat.mod_eq_of_lt (show 1 + i < w by omega)]

/-! ### Through the carry (R190) -/

/-- Rotating `c || v` and cutting it again loses nothing between two rotations. -/
theorem rotateThroughCarry_add (dir : Direction) (v : BitVec w) (c : Bool) (m n : Nat) :
    rotateThroughCarry dir (rotateThroughCarry dir v c m).1 (rotateThroughCarry dir v c m).2 n =
      rotateThroughCarry dir v c (m + n) := by
  cases dir with
  | left => simp only [rotateThroughCarry, BitVec.cons_msb_setWidth, rotateLeft_rotateLeft]
  | right => simp only [rotateThroughCarry, BitVec.cons_msb_setWidth, rotateRight_rotateRight]

theorem setWidth_concat_cons (a b : Bool) (v : BitVec w) :
    ((BitVec.cons a v).concat b).setWidth (w + 1) = v.concat b := by
  apply BitVec.eq_of_getLsbD_eq
  intro i hi
  have hne : i - 1 = w → i = 0 := by omega
  simp only [BitVec.getLsbD_setWidth, BitVec.getLsbD_concat, BitVec.getLsbD_cons]
  grind

theorem extractLsb'_one_cons_cons (a b : Bool) (v : BitVec w) :
    (BitVec.cons a (BitVec.cons b v)).extractLsb' 1 (w + 1) = BitVec.cons a ((BitVec.cons b v).extractLsb' 1 w) := by
  apply BitVec.eq_of_getLsbD_eq
  intro i hi
  simp only [BitVec.getLsbD_extractLsb', BitVec.getLsbD_cons]
  grind

theorem rotateThroughCarry_left_one (hw : 0 < w) (v : BitVec w) (c : Bool) :
    rotateThroughCarry .left v c 1 = ((v.concat c).setWidth w, v.msb) := by
  have hmsb : (v.concat c).msb = v.msb := by simp [BitVec.msb_concat, hw]
  simp only [rotateThroughCarry, rotateLeft_one, BitVec.msb_cons, setWidth_concat_cons, hmsb]

theorem rotateThroughCarry_right_one (hw : 0 < w) (v : BitVec w) (c : Bool) :
    rotateThroughCarry .right v c 1 = ((BitVec.cons c v).extractLsb' 1 w, v.getLsbD 0) := by
  have hlsb : (BitVec.cons c v).getLsbD 0 = v.getLsbD 0 := by
    rw [BitVec.getLsbD_cons, if_neg (Nat.ne_of_lt hw)]
  simp only [rotateThroughCarry, rotateRight_one, extractLsb'_one_cons_cons, BitVec.setWidth_cons, BitVec.msb_cons,
    hlsb]

/-! ### The closed forms are the iteration (R190) -/

/-- One step is the closed form at 1. -/
theorem shiftStep_eq_shiftClosed (hw : 0 < w) (op : ShiftOp) (dir : Direction) (v : BitVec w) (c : Bool) :
    shiftStep op dir v c = shiftClosed op dir v c 1 := by
  cases op with
  | shift =>
    cases dir with
    | left =>
      have hone : decide (1 ≤ w) = true := decide_eq_true hw
      simp only [shiftStep, shiftClosed, ofNat_double, BitVec.msb_eq_getLsbD_last, hone, Bool.true_and]
    | right => simp [shiftStep, shiftClosed, ofNat_half]
  | rotate =>
    cases dir with
    | left => simp only [shiftStep, shiftClosed, ofNat_double_add, rotateLeft_one]
    | right => simp only [shiftStep, shiftClosed, ofNat_half_add hw, rotateRight_one]
  | rotateCarry =>
    cases dir with
    | left => simp only [shiftStep, shiftClosed, ofNat_double_add, rotateThroughCarry_left_one hw]
    | right => simp only [shiftStep, shiftClosed, ofNat_half_add hw, rotateThroughCarry_right_one hw]

/-- One step more is one place more. The bit a shift moves out depends on the value alone, so what the closed form
gives as that bit at 0 does not matter. -/
theorem shiftClosed_succ (hw : 0 < w) (op : ShiftOp) (dir : Direction) (v : BitVec w) (c : Bool) (n : Nat) :
    shiftClosed op dir (shiftClosed op dir v c n).1 (shiftClosed op dir v c n).2 1 =
      shiftClosed op dir v c (n + 1) := by
  cases op with
  | shift =>
    cases dir with
    | left =>
      have hout : (v <<< n).getLsbD (w - 1) = (decide (n + 1 ≤ w) && v.getLsbD (w - (n + 1))) := by
        rw [BitVec.getLsbD_shiftLeft]
        grind
      simp only [shiftClosed, BitVec.shiftLeft_add, hout, decide_eq_true (show 1 ≤ w from hw), Bool.true_and]
    | right => simp [shiftClosed, BitVec.shiftRight_add]
  | rotate =>
    cases dir with
    | left => simp only [shiftClosed, rotateLeft_rotateLeft]
    | right => simp only [shiftClosed, rotateRight_rotateRight]
  | rotateCarry => exact rotateThroughCarry_add dir v c n 1

/-- The iteration peeled at its last step. -/
theorem shiftIter_succ (op : ShiftOp) (dir : Direction) (v : BitVec w) (c : Bool) (n : Nat) :
    shiftIter op dir v c (n + 1) = shiftStep op dir (shiftIter op dir v c n).1 (shiftIter op dir v c n).2 := by
  induction n generalizing v c with
  | zero => rfl
  | succ n ih => exact ih _ _

/-- From the first step on, the two agree in the value and in the bit moved out. -/
theorem shiftIter_eq_shiftClosed (hw : 0 < w) (op : ShiftOp) (dir : Direction) (v : BitVec w) (c : Bool) {n : Nat}
    (hn : 1 ≤ n) : shiftIter op dir v c n = shiftClosed op dir v c n := by
  induction n, hn using Nat.le_induction with
  | base => exact shiftStep_eq_shiftClosed hw op dir v c
  | succ n _ ih => rw [shiftIter_succ, ih, shiftStep_eq_shiftClosed hw, shiftClosed_succ hw]

/-- A count of 0 moves nothing. -/
theorem shiftClosed_zero_fst (op : ShiftOp) (dir : Direction) (v : BitVec w) (c : Bool) :
    (shiftClosed op dir v c 0).1 = v := by
  cases op with
  | shift => cases dir <;> simp [shiftClosed]
  | rotate => cases dir <;> simp [shiftClosed]
  | rotateCarry => cases dir <;> simp [shiftClosed, rotateThroughCarry]

/-- So the value is the iteration's at every count, 0 included. -/
theorem shiftClosed_fst_eq_shiftIter (hw : 0 < w) (op : ShiftOp) (dir : Direction) (v : BitVec w) (c : Bool) (n : Nat) :
    (shiftClosed op dir v c n).1 = (shiftIter op dir v c n).1 := by
  cases n with
  | zero => exact shiftClosed_zero_fst op dir v c
  | succ n => rw [shiftIter_eq_shiftClosed hw op dir v c n.succ_pos]

end

/-! ### The flags after a shift or rotate (R190) -/

theorem Flags.afterShift_eq (f : Flags) (y : Bool) (n : Nat) {w : Nat} (r : BitVec w) (out : Bool) :
    f.afterShift y n r out =
      { z := decide (r = 0), c := if y = true ∧ 1 ≤ n then out else f.c, n := r.msb, v := f.v } := by
  by_cases h : y = true ∧ 1 ≤ n
  · simp [Flags.afterShift, Flags.setZN, h]
  · simp [Flags.afterShift, Flags.setZN, h]

/-! ### SHIFT, ROT, SHIFTC and ROTC (R191 to R194) -/

/-- What the claim asks of the four, for any instruction that ends in a shift or rotate by `n`. -/
theorem moved_of_shiftBy {i : Instr} {s : State} {op : ShiftOp} {y : Bool} {sd : Size} {dir : Direction} {rd : RegNum}
    {n : Nat} (hi : exec i s = .next (s.shiftBy op y sd dir rd n)) :
    let p := shiftIter op dir (s.gp rd sd) s.flags.c n
    ∃ t, exec i s = .next t ∧ WroteReg s t sd rd 2 p.1 ∧ (t.flags.z = true ↔ p.1 = 0) ∧ t.flags.n = p.1.msb ∧
      t.flags.c = (if y = true ∧ 1 ≤ n then p.2 else s.flags.c) ∧ t.flags.v = s.flags.v := by
  intro p
  let q := shiftClosed op dir (s.gp rd sd) s.flags.c n
  have hval : q.1 = p.1 := shiftClosed_fst_eq_shiftIter (size_bits_pos sd) ..
  have hend : s.shiftBy op y sd dir rd n = s.putResult sd rd 2 (p.1, s.flags.afterShift y n p.1 q.2) := by
    rw [← hval]
    rfl
  refine ⟨_, hi, hend ▸ s.wroteReg_putResult .., ?_⟩
  have hflags := congrArg State.flags hend
  rw [State.putResult, State.setFlags_flags, Flags.afterShift_eq] at hflags
  rw [hflags]
  refine ⟨decide_eq_true_iff, rfl, ?_, rfl⟩
  by_cases h : y = true ∧ 1 ≤ n
  · obtain ⟨_, hn⟩ := h
    have hout : p = q := shiftIter_eq_shiftClosed (size_bits_pos sd) op dir _ _ hn
    rw [hout]
  · simp only [if_neg h]

/-- Settles O34: the four end in one state but for the operation and the count. -/
theorem shiftFamilyCompletes : Obligations.ShiftFamilyCompletes := by
  intro y sd dir rd s
  simp only [gpValue_eq]
  exact ⟨fun _ _ => moved_of_shiftBy rfl, fun _ _ => moved_of_shiftBy rfl, fun _ => moved_of_shiftBy rfl,
    fun _ => moved_of_shiftBy rfl⟩

end Sys2Proof.Machine

/-! PROOFS. Bit instructions (43_bit.md R200 to R206): the four that change a bit end in one state but for the value and
the index, and the two that test one in one state but for the size and the index. -/

namespace Sys2Proof.Machine

/-! ### One bit of a value (R200) -/

/-- `v` with bit `i` cleared or set: what CLRB, CLRBC, SETB and SETBC compute from their target. -/
def withBit (value : Bool) (i : Nat) {w : Nat} (v : BitVec w) : BitVec w :=
  if value then v ||| BitVec.twoPow w i else v &&& ~~~BitVec.twoPow w i

theorem getLsbD_withBit (value : Bool) (i : Nat) {w : Nat} (v : BitVec w) {j : Nat} (hj : j < w) :
    (withBit value i v).getLsbD j = if j = i then value else v.getLsbD j := by
  have hmask : (BitVec.twoPow w i).getLsbD j = decide (j = i) := by
    rw [BitVec.getLsbD_twoPow, ← Bool.decide_and, decide_eq_decide]
    omega
  cases value with
  | true =>
    rw [withBit, if_pos rfl, BitVec.getLsbD_or, hmask]
    by_cases h : j = i <;> simp [h]
  | false =>
    rw [withBit, if_neg Bool.false_ne_true, BitVec.getLsbD_and, BitVec.getLsbD_not, hmask, decide_eq_true hj]
    by_cases h : j = i <;> simp [h]

/-! ### CLRB, CLRBC, SETB and SETBC (R201 to R204) -/

section

variable {s : State} {sd : Size} {d : Operand}

theorem State.changeBit_below {n : Nat} (value : Bool) (hok : s.operandOk .dest sd d = true) (hn : n < sd.bits) :
    s.changeBit value sd d n =
      .ok (s.writeOperand (s.nextPc 2) sd (withBit value n (s.operand (s.nextPc 2) sd d)) d) := by
  simp only [State.changeBit, hok, need_true, try_ok_bind, if_pos hn, withBit]

theorem State.changeBit_beyond {n : Nat} (value : Bool) (hok : s.operandOk .dest sd d = true) (hn : sd.bits ≤ n) :
    s.changeBit value sd d n = .ok (s.setPc (s.nextPc 2)) := by
  simp only [State.changeBit, hok, need_true, try_ok_bind, if_neg (Nat.not_lt.mpr hn)]

/-- What the claim asks of the four, for any instruction whose meaning is a change of bit `n`. -/
theorem changed_of_changeBit {i : Instr} {value : Bool} {n : Nat} (h : (Instr.clrbc sd d 0).allowed s.ps.m = true)
    (hi : exec i s = s.finish (s.changeBit value sd d n)) :
    ∃ t, exec i s = .next t ∧
      (n < sd.bits → ∃ v, WroteOperand s t (s.pc + 2) sd v d ∧
        ∀ j, j < sd.bits → v.getLsbD j = if j = n then value else (OperandValue s (s.pc + 2) sd d).getLsbD j) ∧
      (sd.bits ≤ n → t = { s with pc := s.pc + 2 }) := by
  obtain ⟨hd, -⟩ := (Bool.and_eq_true ..).mp h
  have hok : s.operandOk .dest sd d = true := (s.operandOk_dest_eq ..).trans h
  rcases Nat.lt_or_ge n sd.bits with hn | hn
  · rw [hi, State.changeBit_below value hok hn, operandValue_eq]
    refine ⟨_, rfl, fun _ => ⟨_, s.wroteOperand_writeOperand _ _ hd, fun j hj => getLsbD_withBit value n _ hj⟩, ?_⟩
    exact fun hge => absurd hn (Nat.not_lt.mpr hge)
  · rw [hi, State.changeBit_beyond value hok hn]
    exact ⟨_, rfl, fun hlt => absurd hlt (Nat.not_lt.mpr hn), fun _ => rfl⟩

end

/-- Settles O35: each of the four is a change of one bit, at an index from a register or from the instruction. -/
theorem bitChangeCompletes : Obligations.BitChangeCompletes := by
  intro sd d s h
  simp only [gpValue_eq]
  exact ⟨fun _ _ => changed_of_changeBit h rfl, fun _ _ => changed_of_changeBit h rfl,
    fun _ => changed_of_changeBit h rfl, fun _ => changed_of_changeBit h rfl⟩

/-! ### TESTB and TESTBC (R205, R206) -/

theorem State.testBit_ok {s : State} {sd : Size} {d : Operand} (n : Nat) (hok : s.operandOk .source sd d = true) :
    s.testBit sd d n = .ok ((s.setPc (s.nextPc 2)).setFlags
      { s.flags with z := !(s.operand (s.nextPc 2) sd d).getLsbD n }) := by
  simp only [State.testBit, hok, need_true, try_ok_bind]

/-- The size TESTBC gives its target is the one the claim names: 8 bits, or the width of the special register (R206). -/
theorem operand_ownSize_eq {d : Operand} {w : Size} (hgp : ∀ n, d = .gp n → w = .byte)
    (hspecial : ∀ r, d = .special r → r.size = some w) : d.ownSize = w := by
  cases d with
  | gp n => exact (hgp n rfl).symm
  | special r => rw [Operand.ownSize, hspecial r rfl, Option.getD_some]

/-- Settles O36: both are a test of one bit; TESTBC takes the size from its target. -/
theorem bitTestCompletes : Obligations.BitTestCompletes := by
  refine ⟨fun sd d rn s h => ?_, fun d bits s w h hgp hspecial => ?_⟩
  · have hok : s.operandOk .source sd d = true := (s.operandOk_source_eq ..).trans h
    rw [operandValue_eq, gpValue_eq]
    exact congrArg s.finish (State.testBit_ok _ hok)
  · obtain rfl := operand_ownSize_eq hgp hspecial
    have hok : s.operandOk .source d.ownSize d = true := by
      rw [State.operandOk_source_eq, operand_sized_ownSize]
      exact h
    rw [operandValue_eq]
    exact congrArg s.finish (State.testBit_ok _ hok)

end Sys2Proof.Machine

/-! PROOFS. LOAD, STORE and IOCTL (44_load_store_io.md R210 to R217): the address table, then one equation for each
instruction in each of its forms, from which both what it completes and what it raises are read off. -/

namespace Sys2Proof.Machine

/-! ### The address table (R211, 20_memory.md R66 to R68) -/

section

variable {s : State} {m : Module} {a : Nat}

/-- Any of the three bounds of BSS raises AddrErr: the 16 bits of an offset, the block in user mode, data space. -/
theorem State.bssCell_beyond (hm : s.curModule = some m)
    (h : 0x10000 ≤ a ∨ (s.ps.m = false ∧ m.bssSize.toNat ≤ a) ∨ s.platform.dataSize ≤ m.bssBase.toNat + a) :
    s.bssCell a = .error (.raise .addrErr) := by
  simp only [State.bssCell, hm]
  cases hc : decide (a < 0x10000) && (s.ps.m || decide (a < m.bssSize.toNat)) with
  | false => rfl
  | true =>
    simp only [Bool.and_eq_true, Bool.or_eq_true, decide_eq_true_eq] at hc
    obtain ⟨hoffset, hblock⟩ := hc
    refine State.inData_beyond ?_
    rcases h with hbig | ⟨huser, hbig⟩ | hspace
    · omega
    · rw [huser] at hblock
      exact absurd (hblock.resolve_left Bool.false_ne_true) (Nat.not_lt.mpr hbig)
    · exact hspace

end

/-- Settles O37: the three bounds of BSS are one lemma, and the other lines are what `base` and the cells say. -/
theorem addressTable : Obligations.AddressTable := by
  intro s
  refine ⟨fun db n => ?_, ?_, rfl, rfl, fun db o => s.base_not_baseWf, ?_, ?_, ?_, ?_, ?_, ?_⟩
  · rw [gpValue_eq]; rfl
  · rw [← s.sp_eq_ite]; rfl
  · exact fun m a hm huser ha => State.bssCell_beyond hm (.inr (.inl ⟨huser, ha⟩))
  · exact fun m a hm ha => State.bssCell_beyond hm (.inr (.inr ha))
  · exact fun m a hm ha => State.bssCell_beyond hm (.inl ha)
  · exact fun m a hm ha hblock hspace => State.bssCell_ok.mpr ⟨m, hm, rfl, hspace, ha, hblock⟩
  · exact fun k i hi => State.stackCell_over hi
  · exact fun k i hp hi => State.stackCell_fits hp hi

/-! ### Reads and writes by their cells (20_memory.md R66) -/

/-- One of the cells of an access of size `sz` raises `x`, and none before it does. -/
def State.CellsRaise (s : State) (sp : Space) (a : Nat) (sz : Size) (x : Abort) : Prop :=
  s.cell sp a = .error x ∨ (sz = .word ∧ (∃ c, s.cell sp a = .ok c) ∧ s.cell sp (a + 1) = .error x)

section

variable {s : State} {sp : Space} {a : Nat} {sz : Size}

/-- The value a read gives is the one the claims see in its cells. -/
theorem State.memRead_valueAt {c0 c1 : Nat} (h0 : s.cell sp a = .ok c0)
    (h1 : sz = .word → s.cell sp (a + 1) = .ok c1) : s.memRead sp a sz = .ok (s.valueAt c0 c1 sz) := by
  cases sz with
  | byte => exact State.memRead_byte_ok.mpr ⟨c0, h0, rfl⟩
  | word => exact State.memRead_word_ok.mpr ⟨c0, c1, h0, h1 rfl, rfl⟩

theorem State.memRead_raises {x : Abort} (h : s.CellsRaise sp a sz x) : s.memRead sp a sz = .error x := by
  rcases h with h | ⟨rfl, ⟨c, h0⟩, h1⟩
  · cases sz <;> simp only [State.memRead, h, try_error_bind]
  · simp only [State.memRead, h0, h1, try_ok_bind, try_error_bind]

theorem State.memWrite_raises {x : Abort} (h : s.CellsRaise sp a sz x) (v : BitVec sz.bits) :
    s.memWrite sp a sz v = .error x := by
  rcases h with h | ⟨rfl, ⟨c, h0⟩, h1⟩
  · cases sz <;> simp only [State.memWrite, h, try_error_bind]
  · simp only [State.memWrite, h0, h1, try_ok_bind, try_error_bind]

/-- On a platform whose stacks fit data space, a pop the current stack holds gives the bytes below SP (R74). -/
theorem State.pop_holds (hp : s.platform.stacksFit = true) (hholds : s.holds sz.bytes) :
    s.pop sz = .ok (s.valueAt (s.topCells (s.sp.toNat - sz.bytes)).1 (s.topCells (s.sp.toNat - sz.bytes)).2 sz,
      s.withSp (s.sp - BitVec.ofNat 16 sz.bytes)) := by
  obtain ⟨hle, hcap⟩ := hholds
  have hcell {j : Nat} (hj : j < s.platform.stackSize s.curStack) :
      s.cell (.stack s.curStack) j = .ok (s.stackAddr s.curStack j) := State.stackCell_fits hp hj
  have hbytes : 1 ≤ sz.bytes := by cases sz <;> decide
  refine State.pop_ok.mpr ⟨hle, State.memRead_valueAt (hcell (by omega)) fun hw => hcell ?_, s.withSp_eq _⟩
  subst hw
  simp only [Size.bytes] at hle ⊢
  omega

/-- What a push changes, its pointer as the claims say it (R73). -/
theorem State.push_withSp {t : State} {v : BitVec sz.bits} (h : s.push sz v = .ok t) :
    t = { s.withSp (s.sp + BitVec.ofNat 16 sz.bytes) with data := t.data } := by
  have hcommute (k : StackId) (x : Word) :
      ({ s with data := t.data } : State).setSp k x = { s.setSp k x with data := t.data } := by cases k <;> rfl
  rw [State.withSp_eq, ← hcommute]
  exact State.push_frame h

/-- A pop of bytes the current stack does not hold below its capacity raises StackErr (R68, R74). -/
theorem State.pop_not_holds (hp : s.platform.stacksFit = true) (h : ¬ s.holds sz.bytes) :
    s.pop sz = .error (.raise .stackErr) := by
  by_cases hle : sz.bytes ≤ s.sp.toNat
  · have hover : s.platform.stackSize s.curStack < s.sp.toNat := Nat.not_le.mp fun hcap => h ⟨hle, hcap⟩
    exact State.pop_error hle (State.memRead_stack_over hp (by omega))
  · exact State.pop_under (Nat.not_le.mp hle)

end

/-! ### LOAD and STORE in each of their two forms (R213 to R215) -/

section

variable {s : State} {sz db : Size} {d base : Operand} {idx : Index}

theorem State.operandOk_of_load_allowed (h : (Instr.load sz d db base idx).allowed s.ps.m = true) :
    s.operandOk .dest sz d = true := by
  simp only [Instr.allowed, Instr.wellFormed, Instr.privileged, Bool.and_eq_true] at h
  obtain ⟨⟨hd, -⟩, hmode⟩ := h
  rw [State.operandOk_dest_eq, hd, hmode]; rfl

theorem State.operandOk_of_store_allowed (h : (Instr.store sz d db base idx).allowed s.ps.m = true) :
    s.operandOk .source sz d = true := by
  simp only [Instr.allowed, Instr.wellFormed, Instr.privileged, Bool.and_eq_true] at h
  obtain ⟨⟨hd, -⟩, hmode⟩ := h
  rw [State.operandOk_source_eq, hd, hmode]; rfl

theorem Instr.destWf_of_load_allowed {m : Bool} (h : (Instr.load sz d db base idx).allowed m = true) :
    d.destWf sz = true := by
  simp only [Instr.allowed, Instr.wellFormed, Bool.and_eq_true] at h
  obtain ⟨⟨hd, -⟩, -⟩ := h
  exact hd

/-- The access is no push and no pop: stack mode off, an index, or another base (R213). -/
theorem State.stackOp_eq_false (h : ¬ (s.ps.sm = true ∧ idx = .none ∧ base = .special .sp)) :
    s.stackOp base idx = false := by
  rw [Bool.eq_false_iff]
  intro hstack
  simp only [State.stackOp, Bool.and_eq_true, decide_eq_true_eq, and_assoc] at hstack
  exact h hstack

theorem exec_load_address {sp : Space} {v : Word} (h : (Instr.load sz d db base idx).allowed s.ps.m = true)
    (hno : ¬ (s.ps.sm = true ∧ idx = .none ∧ base = .special .sp)) (hbase : s.base db base = .ok (sp, v)) :
    exec (.load sz d db base idx) s = s.finish (s.memRead sp (effectiveAddress v idx) sz >>= fun x =>
      .ok (s.writeOperand (s.nextPc (2 + idx.bytes)) sz x d)) := by
  simp only [exec, execLoad, State.operandOk_of_load_allowed h, hbase, State.stackOp_eq_false hno, need_true,
    try_ok_bind, Bool.false_eq_true, if_false]

theorem exec_store_address {sp : Space} {v : Word} (h : (Instr.store sz d db base idx).allowed s.ps.m = true)
    (hno : ¬ (s.ps.sm = true ∧ idx = .none ∧ base = .special .sp)) (hbase : s.base db base = .ok (sp, v)) :
    exec (.store sz d db base idx) s = s.finish (s.memWrite sp (effectiveAddress v idx) sz
      (s.operand (s.nextPc (2 + idx.bytes)) sz d) >>= fun t => .ok (t.setPc (s.nextPc (2 + idx.bytes)))) := by
  simp only [exec, execStore, State.operandOk_of_store_allowed h, hbase, State.stackOp_eq_false hno, need_true,
    try_ok_bind, Bool.false_eq_true, if_false]

/-- A LOAD in stack mode raises what its pop raises. -/
theorem exec_load_pop_raises {e : Exc} (hsm : s.ps.sm = true) (hd : s.operandOk .dest sz d = true)
    (h : s.pop sz = .error (.raise e)) : exec (.load sz d .word (.special .sp) .none) s = s.raise e := by
  simp [exec, execLoad, hd, State.base, State.stackOp, hsm, h]

/-- A STORE in stack mode raises what its push raises. -/
theorem exec_store_push_raises {e : Exc} (hsm : s.ps.sm = true) (hd : s.operandOk .source sz d = true)
    (h : ∀ v, s.push sz v = .error (.raise e)) :
    exec (.store sz d .word (.special .sp) .none) s = s.raise e := by
  simp [exec, execStore, hd, State.base, State.stackOp, hsm, h]

end

/-- Settles O39: the read gives the value at its cells, and the instruction ends in a write of it to its operand. -/
theorem loadCompletes : Obligations.LoadCompletes := by
  intro sz d db base idx s sp v c0 c1 h hno hbase h0 h1
  rw [exec_load_address h hno hbase, State.memRead_valueAt h0 h1, encode_length]
  exact ⟨_, rfl, s.wroteOperand_writeOperand _ _ (Instr.destWf_of_load_allowed h)⟩

/-- Settles O40: the destination operand is written in the state the pop leaves, so SP and PC may be it. -/
theorem popCompletes : Obligations.PopCompletes := by
  intro sz d s h hp hsm hholds
  exact ⟨_, exec_load_pop hsm (State.operandOk_of_load_allowed h) (State.pop_holds hp hholds),
    State.wroteOperand_writeOperand _ _ _ (Instr.destWf_of_load_allowed h)⟩

/-- Settles O41: the write stores the data register in its cells and changes data space alone. -/
theorem storeCompletes : Obligations.StoreCompletes := by
  intro sz d db base idx s sp v c0 c1 h hno hbase h0 h1
  obtain ⟨t, ht⟩ := State.memWrite_answers h0 h1 (s.operand (s.nextPc (2 + idx.bytes)) sz d)
  rw [encode_length, exec_store_address h hno hbase, ht]
  intro next
  refine ⟨_, rfl, ?_, ?_⟩
  · rw [operandValue_eq]
    exact (State.memWrite_storedAt ht h0 h1).of_data rfl rfl
  · exact congrArg (fun x => x.setPc next) (State.memWrite_frame ht)

/-- Settles O42: the value is read before the push, which changes data space and SP alone. -/
theorem pushCompletes : Obligations.PushCompletes := by
  intro sz d s h hp hsm hroom
  obtain ⟨t, hpush, hstored⟩ := State.push_answers hp hroom (s.operand (s.nextPc 2) sz d)
  refine ⟨_, exec_store_push hsm (State.operandOk_of_store_allowed h) hpush, ?_, ?_⟩
  · rw [operandValue_eq]
    exact hstored.of_data rfl rfl
  · exact congrArg (fun x => x.setPc (s.nextPc 2)) (State.push_withSp hpush)

/-- Settles O43: an access raises what its cells raise, and in stack mode what the pop or the push raises. -/
theorem accessTraps : Obligations.AccessTraps := by
  intro sz d db base idx s
  refine ⟨fun sp v e hno hbase hcells => ⟨fun h => ?_, fun h => ?_⟩, fun hsm hlt h => ?_, fun hp hsm hno h => ?_,
    fun hsm hno h => ?_⟩
  · rw [exec_load_address h hno hbase]
    exact State.finish_raise_bind (State.memRead_raises hcells)
  · rw [exec_store_address h hno hbase]
    exact State.finish_raise_bind (State.memWrite_raises hcells _)
  · exact exec_load_pop_raises hsm (State.operandOk_of_load_allowed h) (State.pop_under hlt)
  · exact exec_load_pop_raises hsm (State.operandOk_of_load_allowed h) (State.pop_not_holds hp hno)
  · exact exec_store_push_raises hsm (State.operandOk_of_store_allowed h) fun v => State.push_over (Nat.not_le.mp hno)

/-! ### Ports below IO_SIZE (R216, R217, 20_memory.md R70, 60_exceptions.md R286) -/

section

variable {s : State} {sz : Size} {port : Nat}

/-- One port read: the descriptor list's byte, or a free value that is recorded. -/
theorem State.ioReadByte_eq (s : State) (port : Nat) :
    s.ioReadByte port = (s.portByte s.ioLog.length port,
      { s with ioLog := s.ioLog ++ s.portRead s.ioLog.length port }) := by
  unfold State.ioReadByte State.portRead State.portByte
  by_cases h : port < s.platform.descriptorBytes.length
  · simp [h]
  · simp [h, State.setIoLog]

/-- One port write: discarded inside the descriptor list, recorded outside. -/
theorem State.ioWriteByte_eq (s : State) (port : Nat) (v : Byte) :
    s.ioWriteByte port v = { s with ioLog := s.ioLog ++ s.portWritten port v } := by
  unfold State.ioWriteByte State.portWritten
  by_cases h : port < s.platform.descriptorBytes.length
  · simp [h]
  · simp [h, State.setIoLog]

theorem State.portOk_below (h : port < s.platform.ioSize) : s.portOk port = .ok () := State.portOk_ok.mpr h

theorem State.ioRead_within (h : port + sz.bytes ≤ s.platform.ioSize) :
    s.ioRead port sz = .ok (s.portValue port sz, { s with ioLog := s.ioLog ++ s.portReads port sz }) := by
  cases sz with
  | byte =>
    simp only [State.ioRead, State.portOk_below h, try_ok_bind, State.ioReadByte_eq]
    rfl
  | word =>
    simp only [State.ioRead, State.portOk_below (Nat.lt_of_succ_lt h), State.portOk_below h, try_ok_bind,
      State.ioReadByte_eq, List.length_append, List.append_assoc]
    rfl

theorem State.ioWrite_within (h : port + sz.bytes ≤ s.platform.ioSize) (v : BitVec sz.bits) :
    s.ioWrite port sz v = .ok { s with ioLog := s.ioLog ++ s.portWrites port sz v } := by
  cases sz with
  | byte =>
    simp only [State.ioWrite, State.portOk_below h, try_ok_bind, State.ioWriteByte_eq]
    rfl
  | word =>
    simp only [State.ioWrite, State.portOk_below (Nat.lt_of_succ_lt h), State.portOk_below h, try_ok_bind,
      State.ioWriteByte_eq, List.append_assoc]
    rfl

end

/-! ### IOCTL in supervisor mode (R216, R217) -/

section

variable {s : State} {sz db : Size} {d : Operand} {n : RegNum} {idx : Index} {port : Nat}

theorem Instr.destWf_of_ioctlIn_allowed {m : Bool} (h : (Instr.ioctlIn sz d db (.gp n) idx).allowed m = true) :
    d.destWf sz = true := by
  simp only [Instr.allowed, Instr.wellFormed, Bool.and_eq_true] at h
  obtain ⟨⟨hd, -⟩, -⟩ := h
  exact hd

theorem Instr.sized_of_ioctlOut_allowed {m : Bool} (h : (Instr.ioctlOut sz d db (.gp n) idx).allowed m = true) :
    d.sized sz = true := by
  simp only [Instr.allowed, Instr.wellFormed, Bool.and_eq_true] at h
  obtain ⟨⟨hd, -⟩, -⟩ := h
  exact hd

theorem exec_ioctlIn_within (hm : s.ps.m = true) (hd : d.destWf sz = true)
    (hp : effectiveAddress ((GpValue s n db).setWidth 16) idx = port) (hport : port + sz.bytes ≤ s.platform.ioSize) :
    exec (.ioctlIn sz d db (.gp n) idx) s = .next (State.writeOperand
      { s with ioLog := s.ioLog ++ s.portReads port sz } (s.nextPc (2 + idx.bytes)) sz (s.portValue port sz) d) := by
  subst hp
  simp only [exec, execIoctlIn, hm, State.portBase_gp, State.operandOk_dest hm hd, State.ioRead_within hport, need_true,
    try_ok_bind, State.finish_ok]

theorem exec_ioctlOut_within (hm : s.ps.m = true) (hd : d.sized sz = true)
    (hp : effectiveAddress ((GpValue s n db).setWidth 16) idx = port) (hport : port + sz.bytes ≤ s.platform.ioSize) :
    exec (.ioctlOut sz d db (.gp n) idx) s = .next { s with
      ioLog := s.ioLog ++ s.portWrites port sz (s.operand (s.nextPc (2 + idx.bytes)) sz d)
      pc := s.nextPc (2 + idx.bytes) } := by
  subst hp
  simp only [exec, execIoctlOut, hm, State.portBase_gp, State.operandOk_source hm hd, State.ioWrite_within hport,
    need_true, try_ok_bind, State.finish_ok, State.setPc]

end

/-- Settles O45: past the checks, which supervisor mode passes, the ports' bytes are written to the operand. -/
theorem ioctlInCompletes : Obligations.IoctlInCompletes := by
  intro sz d db n idx s h hm port hport
  have hd := Instr.destWf_of_ioctlIn_allowed h
  rw [encode_length]
  exact ⟨_, exec_ioctlIn_within hm hd rfl hport, State.wroteOperand_writeOperand _ _ _ hd⟩

/-- Settles O46: past the checks the data register's bytes go to the ports, and PC moves on. -/
theorem ioctlOutCompletes : Obligations.IoctlOutCompletes := by
  intro sz d db n idx s h hm
  rw [encode_length]
  intro port next hport
  rw [operandValue_eq]
  exact exec_ioctlOut_within hm (Instr.sized_of_ioctlOut_allowed h) rfl hport

end Sys2Proof.Machine

/-! PROOFS. Control transfer (45_control.md R230 to R237): what the conditions say after a comparison, branches and
calls as one push and jump, RET by what stands on LINK, and LIBCALL as an import looked up, a push and a record. -/

namespace Sys2Proof.Machine

/-! ### The conditions after a comparison (R231, 41_arithmetic.md R173(e)) -/

section

variable {w : Nat} {x y r : BitVec w} {f : Flags}

/-- C is the borrow: without it the difference is the result, with it the result less 2^w. -/
theorem DiffFlags.carry_iff (h : DiffFlags f x y false r) : f.c = true ↔ x.toNat < y.toNat := by
  obtain ⟨hdiff, -⟩ := h
  have hr := r.isLt
  rw [int_two_pow] at hdiff
  generalize 2 ^ w = m at hr hdiff
  cases hc : f.c <;> simp only [hc, Bool.toNat_true, Bool.toNat_false] at hdiff
  · exact iff_of_false Bool.false_ne_true (by omega)
  · exact iff_of_true rfl (by omega)

/-- Z says that the operands are equal: a result of 0 has no borrow. -/
theorem DiffFlags.cond_eq_iff (h : DiffFlags f x y false r) : f.cond .eq = true ↔ x = y := by
  have hborrow := h.carry_iff
  obtain ⟨hdiff, hz, -⟩ := h
  have hx := x.isLt
  have hy := y.isLt
  have hr := r.isLt
  have hzero : r = 0 ↔ r.toNat = 0 := by simp [← BitVec.toNat_inj]
  show f.z = true ↔ x = y
  rw [hz, hzero, ← BitVec.toNat_inj]
  rw [int_two_pow] at hdiff
  generalize 2 ^ w = m at hx hy hr hdiff
  cases hc : f.c <;> simp only [hc, Bool.toNat_true, Bool.toNat_false] at hdiff hborrow <;> omega

/-- N and V differ exactly when the signed difference is negative: in range N is its sign, out of range its opposite. -/
theorem DiffFlags.cond_lt_iff (hw : 0 < w) (h : DiffFlags f x y false r) : f.cond .lt = true ↔ x.toInt < y.toInt := by
  obtain ⟨hdiff, -, hn, hv⟩ := h
  have hx := toInt_by_msb hw x
  have hy := toInt_by_msb hw y
  have hr := toInt_by_msb hw r
  show (f.n != f.v) = true ↔ x.toInt < y.toInt
  rw [hn]
  rw [int_two_pow] at hdiff hv
  rw [two_pow_eq_double hw] at hdiff
  generalize 2 ^ (w - 1) = half at hx hy hr hdiff hv
  generalize f.c = borrow at hdiff
  cases borrow with
  | false | true =>
    simp only [Bool.toNat_true, Bool.toNat_false] at hdiff hv
    grind

end

theorem Flags.cond_ne (f : Flags) : f.cond .ne = !f.cond .eq := rfl

theorem Flags.cond_ge (f : Flags) : f.cond .ge = !f.cond .lt := by simp [Flags.cond, bne]

theorem Flags.cond_le (f : Flags) : f.cond .le = (f.cond .eq || f.cond .lt) := rfl

theorem Flags.cond_gt (f : Flags) : f.cond .gt = !f.cond .le := by simp [Flags.cond, bne]

/-- Settles O30: Z, C and the sign of the difference decide three comparisons, and the other conditions are their
negations and their union. -/
theorem conditionsCompare : Obligations.ConditionsCompare := by
  intro w x y r f hw h
  have heq := h.cond_eq_iff
  have hlt := h.cond_lt_iff hw
  have hle : f.cond .le = true ↔ x.toInt ≤ y.toInt := by
    rw [Flags.cond_le, Bool.or_eq_true, heq, hlt, ← BitVec.toInt_inj]
    omega
  refine ⟨rfl, heq, ?_, ?_, hlt, ?_, hle, h.carry_iff⟩
  · rw [Flags.cond_ne, Bool.not_eq_true', ← Bool.not_eq_true, heq]
  · rw [Flags.cond_gt, Bool.not_eq_true', ← Bool.not_eq_true, hle, Int.not_le]
  · rw [Flags.cond_ge, Bool.not_eq_true', ← Bool.not_eq_true, hlt, Int.not_lt]

/-! ### NOP (R230) -/

/-- A code byte nothing has loaded reads as the erased byte (log 6). -/
theorem State.codeByte_erased {s : State} {a : Nat} (h : Memory.listed s.code a = none) : s.codeByte a = 0x00 := by
  simp [State.codeByte, Memory.read, h, unlisted]

/-- Settles O48: the byte of NOP by the decoder's round trip, its effect by `exec`. -/
theorem nopCompletes : Obligations.NopCompletes :=
  ⟨rfl, decode_encode .nop, fun _ _ => State.codeByte_erased, fun _ => rfl⟩

/-! ### A push and a jump (R232, R233, 20_memory.md R73) -/

section

variable {s : State}

/-- With room on the stack, a push of a return address and a jump after it complete. -/
theorem State.finish_push_room (hp : s.platform.stacksFit = true) (hroom : s.room 2) (next target : Word) :
    ∃ t, s.finish (s.push .word next >>= fun u => .ok (u.setPc target)) = .next t ∧
      PushedThenAt s t .word next target := by
  obtain ⟨u, hpush, hstored⟩ := State.push_answers (sz := .word) hp hroom next
  rw [hpush]
  exact ⟨u.setPc target, rfl, hstored.of_data rfl rfl, congrArg (·.setPc target) (State.push_withSp hpush)⟩

theorem State.push_full (h : ¬ s.room 2) (v : Word) : s.push .word v = .error (.raise .stackErr) :=
  State.push_over (Nat.not_le.mp h)

/-! ### Bcc (R231, R232) -/

variable {link : Bool} {cc : Cond} {disp : Imm}

theorem exec_bcc_not_taken (hcc : cc ≠ .reserved) (h : s.flags.cond cc = false) :
    exec (.bcc link cc disp) s = .next (s.setPc (s.nextPc (1 + disp.bytes))) := by
  simp [exec, execBcc, hcc, h]

theorem exec_bcc_taken (hcc : cc ≠ .reserved) (h : s.flags.cond cc = true) :
    exec (.bcc false cc disp) s = .next (s.setPc (s.nextPc (1 + disp.bytes) + disp.displacement)) := by
  simp [exec, execBcc, hcc, h]

theorem exec_bcc_link_taken (hcc : cc ≠ .reserved) (h : s.flags.cond cc = true) :
    exec (.bcc true cc disp) s = s.finish (s.push .word (s.nextPc (1 + disp.bytes)) >>= fun u =>
      .ok (u.setPc (s.nextPc (1 + disp.bytes) + disp.displacement))) := by
  simp [exec, execBcc, hcc, h]

end

/-- Settles O49: a branch not taken, a plain jump, and a push with a jump, which raises when the stack is full. -/
theorem bccCompletes : Obligations.BccCompletes := by
  intro link cc disp s hcc hp
  rw [encode_length]
  refine ⟨exec_bcc_not_taken hcc, ?_, ?_, ?_⟩
  · rintro h rfl
    exact exec_bcc_taken hcc h
  · rintro h rfl hroom
    rw [exec_bcc_link_taken hcc h]
    exact State.finish_push_room hp hroom _ _
  · rintro h rfl hfull
    rw [exec_bcc_link_taken hcc h]
    exact State.finish_raise_bind (State.push_full hfull _)

/-! ### JSR (R233) -/

theorem exec_jsr (sz : Size) (rd : RegNum) (s : State) : exec (.jsr sz rd) s =
    s.finish (s.push .word (s.pc + 2) >>= fun u => .ok (u.setPc ((GpValue s rd sz).setWidth 16))) := by
  rw [gpValue_eq]; rfl

/-- Settles O50: a push with a jump to the register as it was before the push. -/
theorem jsrCompletes : Obligations.JsrCompletes := by
  intro sz rd s hp
  rw [exec_jsr]
  exact ⟨fun hroom => State.finish_push_room hp hroom _ _,
    fun hfull => State.finish_raise_bind (State.push_full hfull _)⟩

/-! ### RET by the top of LINK (R234, 10_state.md R41) -/

section

variable {s : State} {more : List LinkRec}

/-- The record RET matches, as the operations and as the claims say it. -/
theorem State.matchingLink_none (h : ¬ s.linkMatches) : s.matchingLink = none := by
  rw [Option.eq_none_iff_forall_ne_some]
  intro r hr
  obtain ⟨hlink, hmatch⟩ := State.matchingLink_some.mp hr
  exact h ⟨r, by rw [hlink]; rfl, hmatch⟩

theorem State.matchingLink_top {kind : LinkKind} {cm : Option Byte}
    (hlink : s.link = ⟨kind, cm, s.curStack, s.sp⟩ :: more) (hkind : kind ≠ .idle) : s.matchingLink = some ⟨kind, cm, s.curStack, s.sp⟩ :=
  State.matchingLink_some.mpr ⟨by rw [hlink]; rfl, rfl, rfl, hkind⟩

theorem State.returnFromSub_inside (h : s.matchingLink = none) :
    s.returnFromSub = s.pop .word >>= fun p => .ok (p.2.setPc p.1) := by
  simp only [State.returnFromSub, h]

theorem State.returnFromSub_lib {c : Byte} (hlink : s.link = ⟨.lib, some c, s.curStack, s.sp⟩ :: more) :
    s.returnFromSub = s.pop .word >>= fun p => .ok (((p.2.setLink more).setCm c).setPc p.1) := by
  simp only [State.returnFromSub, State.matchingLink_top hlink (by decide)]
  rw [hlink]
  rfl

theorem State.returnFromSub_vm (hlink : s.link = ⟨.vm, none, s.curStack, s.sp⟩ :: more) :
    s.returnFromSub = .ok (s.setLink more).returnToVm := by
  simp only [State.returnFromSub, State.matchingLink_top hlink (by decide)]
  rw [hlink]
  rfl

/-- Unless a `vm` record matches, RET begins with a pop. -/
theorem State.returnFromSub_pops
    (h : ∀ r, s.link.head? = some r → ¬ (r.kind = .vm ∧ r.stack = s.curStack ∧ r.sp = s.sp)) :
    ∃ f, s.returnFromSub = s.pop .word >>= f := by
  unfold State.returnFromSub
  split
  next hmatch =>
    obtain ⟨hlink, hstack, hsp, -⟩ := State.matchingLink_some.mp hmatch
    exact absurd ⟨rfl, hstack, hsp⟩ (h _ (by rw [hlink]; rfl))
  next => exact ⟨_, rfl⟩
  next => exact ⟨_, rfl⟩

end

theorem exec_ret (s : State) : exec .ret s = s.finish s.returnFromSub := rfl

/-- Settles O51: each branch of RET is a pop, which gives the word below SP or raises StackErr. -/
theorem retCompletes : Obligations.RetCompletes := by
  intro s hp
  refine ⟨fun hno hholds => ?_, fun c more hlink hholds => ?_, fun hvm hno => ?_⟩
  · rw [exec_ret, State.returnFromSub_inside (State.matchingLink_none hno), State.pop_holds (sz := .word) hp hholds]
    rfl
  · rw [exec_ret, State.returnFromSub_lib hlink, State.pop_holds (sz := .word) hp hholds]
    rfl
  · obtain ⟨f, hf⟩ := State.returnFromSub_pops hvm
    rw [exec_ret, hf]
    exact State.finish_raise_bind (State.pop_not_holds (sz := .word) hp hno)

/-! ### RET to the VM (70_reset_and_hazards.md R300 to R302) -/

section

variable {s : State}

theorem State.returnToVm_starts {a : Byte} (hphase : s.vmPhase = .kernel) (happ : s.defaultApp = some a) :
    s.returnToVm = s.startModule a false .application := by
  simp only [State.returnToVm, hphase, State.afterKernel, happ]

theorem State.returnToVm_sleeps
    (h : (s.vmPhase = .kernel ∧ s.defaultApp = none) ∨ (s.vmPhase = .application ∧ s.kernel ≠ none)) :
    s.returnToVm = s.enterVmSleep := by
  rcases h with ⟨hphase, happ⟩ | ⟨hphase, hkernel⟩
  · simp only [State.returnToVm, hphase, State.afterKernel, happ]
  · obtain ⟨k, hk⟩ := Option.ne_none_iff_exists'.mp hkernel
    simp only [State.returnToVm, hphase, hk]

theorem State.returnToVm_halts (hphase : s.vmPhase = .application) (hkernel : s.kernel = none) :
    s.returnToVm = s.setRun .halted := by
  simp only [State.returnToVm, hphase, hkernel]

end

/-- Settles O52: RET by a `vm` record is the VM's own next move, without the record. -/
theorem retToVmCompletes : Obligations.RetToVmCompletes := by
  intro s more hlink
  rw [exec_ret, State.returnFromSub_vm hlink, State.finish_ok]
  refine ⟨fun a hphase happ => ?_, fun h => ⟨_, rfl, ?_⟩, fun hphase hkernel => ⟨_, rfl, ?_⟩⟩
  · rw [State.returnToVm_starts (s := s.setLink more) hphase happ, State.startModule_eq]
    rfl
  · rw [State.returnToVm_sleeps (s := s.setLink more) h]
    rfl
  · rw [State.returnToVm_halts (s := s.setLink more) hphase hkernel]
    rfl

/-! ### The lookup of an import (20_memory.md R81) -/

section

variable {s : State} {i f k : Nat} {c x : Module} {nm : List Byte}

/-- The module an import means: the lowest-numbered one of its name. -/
theorem findIdx?_name_eq_some (hk : s.mods[k]? = some x) (hname : x.name = nm)
    (hlow : ∀ (j : Nat) (y : Module), j < k → s.mods[j]? = some y → y.name ≠ nm) :
    (s.mods.findIdx? fun m => m.name == nm) = some k := by
  obtain ⟨hlt, hx⟩ := List.getElem?_eq_some_iff.mp hk
  refine List.findIdx?_eq_some_iff_getElem.mpr ⟨hlt, by simp [hx, hname], fun j hj => ?_⟩
  simpa using hlow j _ hj (List.getElem?_eq_getElem (hj.trans hlt))

theorem State.resolve_no_import (hc : s.curModule = some c) (hi : c.imports.length ≤ i) :
    s.resolve i f = .error (.raise .modNotFound) := by
  simp [State.resolve, hc, hi]

theorem State.resolve_no_module (hc : s.curModule = some c) (hi : c.imports[i]? = some nm)
    (hno : ∀ y ∈ s.mods, y.name ≠ nm) : s.resolve i f = .error (.raise .modNotFound) := by
  have hfind : (s.mods.findIdx? fun m => m.name == nm) = none := by simpa using hno
  simp [State.resolve, hc, hi, hfind]

theorem State.resolve_no_export (hc : s.curModule = some c) (hi : c.imports[i]? = some nm)
    (hfind : (s.mods.findIdx? fun m => m.name == nm) = some k) (hk : s.mods[k]? = some x) (hf : x.exports.length ≤ f) :
    s.resolve i f = .error (.raise .addrErr) := by
  simp [State.resolve, hc, hi, hfind, hk, hf]

end

/-! ### LIBCALL and LIBCALLX (R235 to R237) -/

theorem exec_libcall (imp : BitVec 4) (fn : BitVec 6) (s : State) :
    exec (.libcall imp fn) s = s.finish (s.callModule imp.toNat fn.toNat (s.pc + 2)) := rfl

theorem exec_libcallx (imp fn : Byte) (s : State) :
    exec (.libcallx imp fn) s = s.finish (s.callModule imp.toNat fn.toNat (s.pc + 3)) := rfl

section

variable {s : State} {i f : Nat}

/-- A call whose import is found: the push, the record with the SP after it, the new module and offset. -/
theorem State.callModule_completes {m : Byte} {off : Word} (hp : s.platform.stacksFit = true)
    (hres : s.resolve i f = .ok (m, off)) (hroom : s.room 2) (next : Word) :
    ∃ t u, s.callModule i f next = .ok t ∧ PushedThenAt s u .word next off ∧
      t = { u with cm := m, link := ⟨.lib, some s.cm, s.curStack, s.sp + 2⟩ :: s.link } := by
  obtain ⟨u, hpush, hstored⟩ := State.push_answers (sz := .word) hp hroom next
  have hkeep := KeepsVm.push hpush
  have hsp : u.sp = s.sp + 2 := State.push_sp hpush
  have hcur : u.curStack = s.curStack := by
    rw [State.push_frame hpush]
    simp [State.curStack]
  refine ⟨_, u.setPc off, State.callModule_ok.mpr ⟨m, off, u, hres, hpush, rfl⟩,
    ⟨hstored.of_data rfl rfl, congrArg (·.setPc off) (State.push_withSp hpush)⟩, ?_⟩
  rw [hsp, hcur, hkeep.link]
  rfl

/-- A call raises what its lookup raises, before the push. -/
theorem State.callModule_unresolved {e : Exc} (h : s.resolve i f = .error (.raise e)) (next : Word) :
    s.callModule i f next = .error (.raise e) := by
  simp only [State.callModule, h, try_error_bind]

/-- A call whose import is found raises StackErr on a full stack. -/
theorem State.callModule_full {p : Byte × Word} (hres : s.resolve i f = .ok p) (hfull : ¬ s.room 2) (next : Word) :
    s.callModule i f next = .error (.raise .stackErr) := by
  simp only [State.callModule, hres, State.push_full hfull, try_ok_bind, try_error_bind]

/-- Both instructions raise what their common operation raises. -/
theorem exec_calls_raise {e : Exc} (h : ∀ next, s.callModule i f next = .error (.raise e)) :
    (∀ (imp : BitVec 4) (fn : BitVec 6), imp.toNat = i → fn.toNat = f → exec (.libcall imp fn) s = s.raise e) ∧
    (∀ (imp fn : Byte), imp.toNat = i → fn.toNat = f → exec (.libcallx imp fn) s = s.raise e) := by
  constructor
  · rintro imp fn rfl rfl
    rw [exec_libcall, h, State.finish_raise]
  · rintro imp fn rfl rfl
    rw [exec_libcallx, h, State.finish_raise]

end

/-- Settles O53: both instructions are the call of the export the lookup finds, each with its own next address. -/
theorem libcallCompletes : Obligations.LibcallCompletes := by
  intro s i f k c x nm off hp hc hi hk hname hlow hf hroom Called
  have hfind := findIdx?_name_eq_some hk hname hlow
  have hcall := State.callModule_completes hp (State.resolve_ok.mpr ⟨c, nm, k, x, hc, hi, hfind, hk, hf, rfl⟩) hroom
  constructor
  · rintro imp fn rfl rfl
    obtain ⟨t, u, hok, hpushed⟩ := hcall (s.pc + 2)
    exact ⟨t, u, by rw [exec_libcall, hok, State.finish_ok], hpushed⟩
  · rintro imp fn rfl rfl
    obtain ⟨t, u, hok, hpushed⟩ := hcall (s.pc + 3)
    exact ⟨t, u, by rw [exec_libcallx, hok, State.finish_ok], hpushed⟩

/-- Settles O54: the three ways the lookup fails, and the push that comes after it. -/
theorem libcallTraps : Obligations.LibcallTraps := by
  intro s i f c hc Raises
  refine ⟨fun hi => ?_, fun nm hi hno => ?_, fun nm k x hi hk hname hlow => ?_⟩
  · exact exec_calls_raise (State.callModule_unresolved (State.resolve_no_import hc hi))
  · exact exec_calls_raise (State.callModule_unresolved (State.resolve_no_module hc hi hno))
  · have hfind := findIdx?_name_eq_some hk hname hlow
    refine ⟨fun hf => ?_, fun hf hfull => ?_⟩
    · exact exec_calls_raise (State.callModule_unresolved (State.resolve_no_export hc hi hfind hk hf))
    · have hexport := List.getElem?_eq_getElem hf
      exact exec_calls_raise (State.callModule_full
        (State.resolve_ok.mpr ⟨c, nm, k, x, hc, hi, hfind, hk, hexport, rfl⟩) hfull)

/-! ### A call and its return (R234, R237) -/

section

variable {s t : State}

theorem exec_call {i : Instr} (hi : (∃ imp fn, i = .libcall imp fn) ∨ (∃ imp fn, i = .libcallx imp fn))
    (s : State) : ∃ imp fn, exec i s = s.finish (s.callModule imp fn (s.pc + BitVec.ofNat 16 i.length)) := by
  obtain ⟨imp, fn, rfl⟩ | ⟨imp, fn, rfl⟩ := hi
  · exact ⟨_, _, exec_libcall imp fn s⟩
  · exact ⟨_, _, exec_libcallx imp fn s⟩

/-- A call that leaves one more record on LINK, without a reboot, has raised nothing. -/
theorem State.callModule_of_link_grows {imp fn : Nat} {next : Word}
    (h : s.finish (s.callModule imp fn next) = .next t) (hlink : t.link.length = s.link.length + 1)
    (hboots : t.boots = s.boots) : s.callModule imp fn next = .ok t := by
  obtain hok | ⟨e, -, hraise⟩ := State.finish_next h
  · exact hok
  · obtain ⟨hsame, -⟩ := State.enter_switches hraise hboots
    rw [hsame] at hlink
    omega

/-- What a push that succeeded has stored. -/
theorem State.push_storedAt {sz : Size} {v : BitVec sz.bits} (hp : s.platform.stacksFit = true)
    (h : s.push sz v = .ok t) : StoredAt s t (s.topCells s.sp.toNat).1 (s.topCells s.sp.toNat).2 sz v := by
  obtain ⟨hroom, -⟩ := State.push_ok.mp h
  obtain ⟨u, hu, hstored⟩ := State.push_answers hp hroom v
  obtain rfl : u = t := Except.ok.inj (hu.symm.trans h)
  exact hstored

/-- A pop looks at neither LINK nor CM, and keeps both. -/
theorem State.pop_switched {v pc : Word} (h : (s.setPc pc).pop .word = .ok (v, t)) (l : List LinkRec) (m : Byte) :
    (((s.setLink l).setCm m).setPc pc).pop .word = .ok (v, (t.setLink l).setCm m) := by
  obtain ⟨hle, hread, rfl⟩ := State.pop_ok.mp h
  have hcommute (k : StackId) (x : Word) : (((s.setPc pc).setSp k x).setLink l).setCm m =
      (((s.setLink l).setCm m).setPc pc).setSp k x := by cases k <;> rfl
  exact State.pop_ok.mpr ⟨hle, hread, hcommute ..⟩

end

/-- Settles O55: the RET meets the record of the call, and its pop undoes the push of the call. -/
theorem libcallThenRet : Obligations.LibcallThenRet := by
  intro i s t hi hp hlt h hlink hboots
  obtain ⟨imp, fn, hexec⟩ := exec_call hi s
  have hcall := State.callModule_of_link_grows (hexec ▸ h) hlink hboots
  obtain ⟨m, off, u, -, hpush, rfl⟩ := State.callModule_ok.mp hcall
  have hkeep := KeepsVm.push hpush
  obtain ⟨-, -, hsame⟩ := State.push_storedAt hp hpush
  refine ⟨hsame, ?_⟩
  rw [exec_ret, State.returnFromSub_lib (c := s.cm) (more := u.link) rfl,
    State.pop_switched (State.pop_push hpush hlt off), hkeep.link]
  rfl

end Sys2Proof.Machine

/-! PROOFS. Exceptions and the system instructions (60_exceptions.md R260 to R273, 46_system.md R250 to R253): the
entry frame as three pushes on the supervisor stack, RETI as the three pops that undo them, and the boot sequence of
RESET. -/

namespace Sys2Proof.Machine

/-! ### Steps that execute nothing (46_system.md R253, 70_reset_and_hazards.md R302) -/

theorem step_eq_arrive {s : State} (hreset : s.outsideReset = false) (hready : s.arrive.interruptReady = false)
    (hrun : s.run ≠ .running) : step s = .next s.arrive := by
  unfold step
  rw [if_neg (by simp [hreset]), if_neg (by simp [hready])]
  split
  next h => exact absurd h hrun
  all_goals rfl

theorem step_eq_reboot {s : State} (hreset : s.outsideReset = true) : step s = .next s.arrive.reboot := by
  simp [step, hreset]

theorem State.interruptReady_halted {s : State} (hrun : s.run = .halted) : s.interruptReady = false := by
  simp [State.interruptReady, hrun]

/-- Settles O10: the branches of `step` that fetch nothing, and the run state the environment keeps. -/
theorem idleSteps : Obligations.IdleSteps := fun s =>
  ⟨step_eq_arrive, fun hrun => State.interruptReady_halted (s.arrive_run.trans hrun), step_eq_reboot⟩

/-- Settles O59: the update `exec` makes is the one stated. -/
theorem sleepCompletes : Obligations.SleepCompletes := fun _ => rfl

/-! ### The boot sequence (70_reset_and_hazards.md R300, R301, R305) -/

/-- A registry flag does not depend on where the BSS blocks lie. -/
theorem flaggedModule_withoutBss (mods : List Module) (bit : Nat) :
    flaggedModule (withoutBss mods) bit = flaggedModule mods bit := by
  simp only [flaggedModule, withoutBss, List.findIdx?_map]
  rfl

/-- Boot places the BSS blocks again and keeps every registry flag. -/
theorem State.flaggedModule_bootClear (s : State) (bit : Nat) :
    flaggedModule s.bootClear.mods bit = flaggedModule s.mods bit := by
  rw [← flaggedModule_withoutBss, (KeepsCode.bootClear s).modules, flaggedModule_withoutBss]

@[simp] theorem State.bootClear_kernel (s : State) : s.bootClear.kernel = s.kernel := s.flaggedModule_bootClear 1

@[simp] theorem State.bootClear_defaultApp (s : State) : s.bootClear.defaultApp = s.defaultApp :=
  s.flaggedModule_bootClear 0

section

variable {s : State}

theorem State.reboot_kernel {k : Byte} (hk : s.kernel = some k) :
    s.reboot = s.bootClear.startModule k true .kernel := by
  simp only [State.reboot, State.bootClear_kernel, hk]

theorem State.reboot_application {a : Byte} (hk : s.kernel = none) (ha : s.defaultApp = some a) :
    s.reboot = s.bootClear.startModule a true .application := by
  simp only [State.reboot, State.bootClear_kernel, hk, State.bootClear_defaultApp, ha]

theorem State.reboot_halted (hk : s.kernel = none) (ha : s.defaultApp = none) : s.reboot = s.bootClear := by
  simp only [State.reboot, State.bootClear_kernel, hk, State.bootClear_defaultApp, ha]

end

/-- Whichever module boot starts, both stacks, PENDING and PS but for M are cleared (R300). -/
theorem State.reboot_clears (s : State) :
    s.reboot.ssp = 0 ∧ s.reboot.usp = 0 ∧ s.reboot.ps = ⟨true, false, false, false, false⟩ ∧ s.reboot.pending = [] := by
  obtain h | ⟨m, p, h⟩ := s.reboot_cases
  · rw [h]
    exact ⟨rfl, rfl, rfl, rfl⟩
  · rw [h, State.startModule_eq]
    exact ⟨rfl, rfl, rfl, rfl⟩

/-- Settles O60: what every reboot clears and keeps, and the module it starts by the registry flags it keeps. -/
theorem resetCompletes : Obligations.ResetCompletes := by
  intro s
  obtain ⟨hssp, husp, hps, hpending⟩ := s.reboot_clears
  have hkeep := KeepsCode.reboot s
  refine ⟨s.reboot, rfl, rfl, hssp, husp, by rw [hps], by rw [hps], by rw [hps], by rw [hps], hpending, hkeep.code,
    hkeep.platform, hkeep.modules, fun k hk => ?_, fun a hk ha => ?_, fun hk ha => ?_⟩
  · rw [State.reboot_kernel hk]
    exact ⟨rfl, rfl, rfl, rfl, rfl, rfl⟩
  · rw [State.reboot_application hk ha]
    exact ⟨rfl, rfl, rfl, rfl, rfl, rfl⟩
  · rw [State.reboot_halted hk ha]
    exact ⟨rfl, rfl⟩

/-! ### The supervisor stack (20_memory.md R68, R73, R74) -/

theorem Platform.stacksFit_sup {p : Platform} (hp : p.stacksFit = true) :
    p.sizeS ≤ p.tosS.toNat + 1 ∧ p.sizeS ≤ 65536 := by
  simp only [Platform.stacksFit, Bool.and_eq_true, decide_eq_true_eq] at hp
  omega

/-- Different indices below the capacity are different bytes. -/
theorem State.stackAddr_sup_ne {s : State} (hp : s.platform.stacksFit = true) {i j : Nat}
    (hij : i < j) (hj : j < s.platform.sizeS) : s.stackAddr .sup i ≠ s.stackAddr .sup j := by
  obtain ⟨htop, -⟩ := Platform.stacksFit_sup hp
  simp only [State.stackAddr, Platform.tos]
  omega

/-- Two changes of data space one after the other. -/
theorem SameDataBut.trans {l l' : List Nat} {s t u : State} (h : SameDataBut l s t) (h' : SameDataBut l' t u) :
    SameDataBut (l ++ l') s u := by
  intro a ha
  obtain ⟨hl, hl'⟩ : a ∉ l ∧ a ∉ l' := by simpa using ha
  exact (h' a hl').trans (h a hl)

/-! ### Entering a handler (60_exceptions.md R266, R269, R273) -/

section

variable {s : State}

/-- What an entry needs, as the operations and as the claims say it. -/
theorem State.canEnter_iff {k : Nat} : s.canEnter k ↔ ∃ m off, s.handler k = some (m, off) := by
  simp only [State.canEnter, State.handler_some]
  exact ⟨fun ⟨m, x, off, h⟩ => ⟨m, off, x, h⟩, fun ⟨m, off, x, h⟩ => ⟨m, x, off, h⟩⟩

theorem Status.onEntry_eq (p : Status) (kind : EventKind) :
    p.onEntry kind = { p with m := true, i := p.i && decide (kind = .faultOrTrap) } := by
  cases kind <;> simp [Status.onEntry]

/-- The byte a frame holds for PS is the one a read of PS gives (R35). -/
theorem State.ps_toByte_eq_operandValue (s : State) : s.ps.toByte = OperandValue s 0 .byte (.special .ps) :=
  (BitVec.setWidth_setWidth_of_le _ (by decide)).trans (BitVec.setWidth_eq _) |>.symm.trans (s.ps.toByte_setWidth .byte)

/-- The machine while an entry pushes its frame: PS is the handler's, `n` bytes stand on the supervisor stack, and data
space is `d`. -/
def State.entering (s : State) (kind : EventKind) (n : Nat) (d : Memory) : State :=
  { s with ssp := s.ssp + BitVec.ofNat 16 n, ps := s.ps.onEntry kind, data := d }

theorem State.entering_zero (s : State) (kind : EventKind) :
    s.entering kind 0 s.data = s.setPs (s.ps.onEntry kind) := by
  simp [State.entering, State.setPs]

/-- One push of the frame: its value goes to the next index, and nothing else changes (R73). -/
theorem State.entering_push (hp : s.platform.stacksFit = true) (hroom : s.ssp.toNat + 4 ≤ s.platform.sizeS)
    (kind : EventKind) {n : Nat} {sz : Size} (hn : n + sz.bytes ≤ 4) (d : Memory) (v : BitVec sz.bits) :
    ∃ d', (s.entering kind n d).push sz v = .ok (s.entering kind (n + sz.bytes) d') ∧
      StoredAt (s.entering kind n d) (s.entering kind (n + sz.bytes) d') (s.stackAddr .sup (s.ssp.toNat + n))
        (s.stackAddr .sup (s.ssp.toNat + n + 1)) sz v := by
  obtain ⟨-, hcap⟩ := Platform.stacksFit_sup hp
  have hbytes : 1 ≤ sz.bytes := by cases sz <;> decide
  have hk : (s.entering kind n d).curStack = .sup := rfl
  have hsp : (s.entering kind n d).sp = s.ssp + BitVec.ofNat 16 n := rfl
  have hindex : (s.ssp + BitVec.ofNat 16 n).toNat = s.ssp.toNat + n := by
    rw [BitVec.toNat_add, BitVec.toNat_ofNat]
    omega
  have hfits : (s.entering kind n d).room sz.bytes := by
    rw [State.room, hk, hsp, hindex]
    exact (by omega : s.ssp.toNat + n + sz.bytes ≤ s.platform.sizeS)
  obtain ⟨t, hpush, hstored⟩ := State.push_answers (s := s.entering kind n d) hp hfits v
  have ht : t = s.entering kind (n + sz.bytes) t.data := by
    rw [State.entering, BitVec.ofNat_add, ← BitVec.add_assoc]
    exact State.push_withSp hpush
  rw [State.topCells, hk, hsp, hindex] at hstored
  exact ⟨t.data, ht ▸ hpush, ht ▸ hstored⟩

/-- With room on the supervisor stack the frame is pushed, whatever the mode was. -/
theorem State.pushFrame_completes (hp : s.platform.stacksFit = true) (hroom : s.ssp.toNat + 4 ≤ s.platform.sizeS)
    (kind : EventKind) (retpc : Word) :
    ∃ d, s.pushFrame kind retpc = .ok (s.entering kind 4 d) ∧ FramePushed s (s.entering kind 4 d) retpc := by
  obtain ⟨d0, hpush0, hfirst, hsecond, hsame0⟩ :=
    State.entering_push hp hroom kind (n := 0) (sz := .word) (by decide) s.data retpc
  obtain ⟨d1, hpush1, hcm, hsame1⟩ := State.entering_push hp hroom kind (n := 2) (sz := .byte) (by decide) d0 s.cm
  obtain ⟨d2, hpush2, hps, hsame2⟩ :=
    State.entering_push hp hroom kind (n := 3) (sz := .byte) (by decide) d1 s.ps.toByte
  have hout (i j : Nat) (hij : i < j) (hj : j < 4) :
      s.stackAddr .sup (s.ssp.toNat + i) ∉ [s.stackAddr .sup (s.ssp.toNat + j)] := by
    simpa using State.stackAddr_sup_ne hp (by omega) (by omega)
  rw [State.entering_zero] at hpush0 hsame0
  refine ⟨d2, State.pushFrame_ok.mpr ⟨_, _, hpush0, hpush1, hpush2⟩, rfl, ?_, ?_, ?_,
    hps.trans s.ps_toByte_eq_operandValue, (hsame0.trans hsame1).trans hsame2⟩
  · exact (hsame2 _ (hout 0 3 (by decide) (by decide))).trans
      ((hsame1 _ (hout 0 2 (by decide) (by decide))).trans hfirst)
  · exact (hsame2 _ (hout 1 3 (by decide) (by decide))).trans
      ((hsame1 _ (hout 1 2 (by decide) (by decide))).trans hsecond)
  · exact (hsame2 _ (hout 2 3 (by decide) (by decide))).trans hcm

/-- An event of any kind enters its handler; in the VM's sleep state the `idle` record comes on top of LINK. -/
theorem State.enter_completes {k : Nat} (hp : s.platform.stacksFit = true) (hk : s.canEnter k) (kind : EventKind)
    (retpc : Word) : ∃ t, s.enter kind k retpc = .next (t.linkOnEntry kind) ∧
      Entered s t k retpc (decide (kind = .faultOrTrap)) := by
  obtain ⟨m, off, hhandler⟩ := State.canEnter_iff.mp hk
  obtain ⟨x, hkernel, hx, hoff, hroom⟩ := State.handler_some.mp hhandler
  obtain ⟨d, hpush, hframe⟩ := State.pushFrame_completes hp hroom kind retpc
  refine ⟨((s.entering kind 4 d).setCm m).setPc off, ?_, m, x, off, hkernel, hx, hoff, hframe, ?_⟩
  · simp only [State.enter, hhandler, hpush]
    unfold State.linkOnEntry
    split <;> rfl
  · simp only [← Status.onEntry_eq]
    rfl

theorem State.enter_reboots {k : Nat} (hk : ¬ s.canEnter k) (kind : EventKind) (retpc : Word) :
    s.enter kind k retpc = .next s.reboot := by
  have hnone : s.handler k = none := by
    rw [Option.eq_none_iff_forall_ne_some]
    exact fun p hhandler => hk (State.canEnter_iff.mpr ⟨p.1, p.2, hhandler⟩)
  simp only [State.enter, hnone]

end

/-- The exceptions and their kernel exports are the table of R261. -/
theorem Exc.num_of_mem {e : Exc} {k : Nat}
    (h : (e, k) ∈ [(Exc.divZero, 0), (.badInstr, 1), (.addrErr, 2), (.stackErr, 3), (.modNotFound, 4)]) :
    k = e.num := by
  simp only [List.mem_cons, Prod.mk.injEq, List.not_mem_nil, or_false] at h
  obtain ⟨rfl, rfl⟩ | ⟨rfl, rfl⟩ | ⟨rfl, rfl⟩ | ⟨rfl, rfl⟩ | ⟨rfl, rfl⟩ := h <;> rfl

/-- Settles O56: TRAP and the five exceptions are one entry procedure, which needs a handler or reboots. -/
theorem eventEntersHandler : Obligations.EventEntersHandler := by
  intro s hp
  refine ⟨fun num hk => State.enter_completes hp hk .faultOrTrap _, fun num hk => State.enter_reboots hk .faultOrTrap _,
    fun e k he => ?_⟩
  obtain rfl := Exc.num_of_mem he
  exact ⟨fun hk => State.enter_completes hp hk .faultOrTrap _, fun hk => State.enter_reboots hk .faultOrTrap _⟩

/-! ### RETI (46_system.md R250, 60_exceptions.md R272) -/

section

variable {s : State}

theorem exec_reti (s : State) : exec .reti s = s.finish s.returnFromException := rfl

/-- The machine while RETI pops its frame: `n` bytes of the supervisor stack are gone. -/
def State.popped (s : State) (n : Nat) : State := { s with ssp := s.ssp - BitVec.ofNat 16 n }

theorem State.popped_zero (s : State) : s.popped 0 = s := by simp [State.popped]

/-- One pop of the frame: the value below SSP, and nothing else changes (R74). -/
theorem State.popped_pop (hp : s.platform.stacksFit = true) (hm : s.ps.m = true)
    (hcap : s.ssp.toNat ≤ s.platform.sizeS) {n : Nat} {sz : Size} (hn : n + sz.bytes ≤ s.ssp.toNat) :
    (s.popped n).pop sz = .ok (s.valueAt (s.stackAddr .sup (s.ssp.toNat - n - sz.bytes))
      (s.stackAddr .sup (s.ssp.toNat - n - sz.bytes + 1)) sz, s.popped (n + sz.bytes)) := by
  have hk : (s.popped n).curStack = .sup := State.curStack_supervisor hm
  have hsp : (s.popped n).sp = s.ssp - BitVec.ofNat 16 n := State.sp_supervisor hm
  have hindex : (s.ssp - BitVec.ofNat 16 n).toNat = s.ssp.toNat - n := by
    have hlt := s.ssp.isLt
    rw [BitVec.toNat_sub, BitVec.toNat_ofNat]
    omega
  have hholds : (s.popped n).holds sz.bytes := by
    rw [State.holds, hk, hsp, hindex]
    exact ⟨by omega, (Nat.sub_le ..).trans hcap⟩
  have hpop := State.pop_holds (s := s.popped n) hp hholds
  have hdown : (s.popped n).withSp (s.ssp - BitVec.ofNat 16 n - BitVec.ofNat 16 sz.bytes) =
      s.popped (n + sz.bytes) := by
    rw [State.popped, State.popped, BitVec.ofNat_add, ← sub_sub]
    exact if_pos hm
  rw [State.topCells, hk, hsp, hindex, hdown] at hpop
  cases sz <;> exact hpop

/-- With a frame on the supervisor stack the three pops give its PS, CM and PC, and the top of LINK says where RETI
returns to. -/
theorem State.returnFromException_frame (hp : s.platform.stacksFit = true) (hm : s.ps.m = true)
    (hle : 4 ≤ s.ssp.toNat) (hcap : s.ssp.toNat ≤ s.platform.sizeS) :
    s.returnFromException =
      let t := (s.popped 4).setPs (Status.ofByte (s.dataByte (s.stackAddr .sup (s.ssp.toNat - 1))))
      if s.idleReturn then .ok (t.setLink s.link.tail).enterVmSleep
      else .ok ((t.setCm (s.dataByte (s.stackAddr .sup (s.ssp.toNat - 2)))).setPc
        (s.valueAt (s.stackAddr .sup (s.ssp.toNat - 4)) (s.stackAddr .sup (s.ssp.toNat - 3)) .word)) := by
  have hps := State.popped_pop hp hm hcap (n := 0) (sz := .byte) (by simp only [Size.bytes]; omega)
  have hcm := State.popped_pop hp hm hcap (n := 1) (sz := .byte) (by simp only [Size.bytes]; omega)
  have hpc := State.popped_pop hp hm hcap (n := 2) (sz := .word) (by simp only [Size.bytes]; omega)
  have hnext : s.ssp.toNat - 4 + 1 = s.ssp.toNat - 3 := by omega
  simp only [State.popped_zero, Size.bytes, Nat.sub_sub, Nat.reduceAdd, Nat.sub_zero, hnext] at hps hcm hpc
  have hfull : decide (4 ≤ s.ssp.toNat) = true := decide_eq_true hle
  simp only [State.returnFromException, hm, hfull, need_true, try_ok_bind, hps, hcm, hpc]
  rfl

/-- Fewer than 4 bytes fail the underflow check, and above the capacity the first pop does (R68, R74). -/
theorem State.returnFromException_raises (hp : s.platform.stacksFit = true) (hm : s.ps.m = true)
    (h : s.ssp.toNat < 4 ∨ s.platform.sizeS < s.ssp.toNat) :
    s.returnFromException = .error (.raise .stackErr) := by
  by_cases hle : 4 ≤ s.ssp.toNat
  · have hno : ¬ s.holds Size.byte.bytes := by
      rintro ⟨-, hcap⟩
      rw [State.curStack_supervisor hm, State.sp_supervisor hm] at hcap
      have hcap : s.ssp.toNat ≤ s.platform.sizeS := hcap
      omega
    simp only [State.returnFromException, hm, need_true, decide_eq_true hle, try_ok_bind,
      State.pop_not_holds hp hno, try_error_bind]
  · simp only [State.returnFromException, hm, need_true, decide_eq_false hle, need_false, try_ok_bind, try_error_bind]

theorem State.idleReturn_iff : s.idleReturn = true ↔ ∃ r, s.link.head? = some r ∧ r.kind = .idle ∧ r.sp = s.ssp := by
  unfold State.idleReturn
  split <;> simp [*]

end

/-- Settles O57: the three pops of a frame on the stack, ended by what stands on LINK, or the check that fails. -/
theorem retiCompletes : Obligations.RetiCompletes := by
  intro s hp hm
  refine ⟨fun hle hcap hno => ?_, fun r more hle hcap hlink hkind hsp => ?_, fun h => ?_⟩
  · have hidle : ¬ s.idleReturn = true := fun h =>
      let ⟨r, hr, hmatch⟩ := State.idleReturn_iff.mp h
      hno r hr hmatch
    rw [exec_reti, State.returnFromException_frame hp hm hle hcap]
    simp only [if_neg hidle]
    rfl
  · have hidle : s.idleReturn = true := State.idleReturn_iff.mpr ⟨r, by rw [hlink]; rfl, hkind, hsp⟩
    rw [exec_reti, State.returnFromException_frame hp hm hle hcap]
    simp only [if_pos hidle, hlink]
    exact ⟨_, rfl, rfl⟩
  · rw [exec_reti, State.returnFromException_raises hp hm h]
    rfl

/-! ### A TRAP and its RETI (R250, R251) -/

/-- The word in two cells, from the bytes a push by the same PS.B left there (R66). -/
theorem State.valueAt_word_of_bytes {s : State} {c0 c1 : Nat} {v : Word}
    (h0 : s.dataByte c0 = firstByte s.ps.b v) (h1 : s.dataByte c1 = secondByte s.ps.b v) : s.valueAt c0 c1 .word = v := by
  rw [← joinBytes_same s.ps.b v, ← h0, ← h1]
  rfl

/-- RETI from a handler's first state undoes the entry but for PC and the frame's bytes, an interrupt's cleared I
included. -/
theorem Entered.restored {s t : State} {k : Nat} {retpc : Word} {keepI : Bool} (h : Entered s t k retpc keepI)
    (hp : s.platform.stacksFit = true) (hroom : s.ssp.toNat + 4 ≤ s.platform.sizeS) (hlt : s.ssp.toNat + 4 < 65536)
    (hlink : ∀ r, s.link.head? = some r → ¬ (r.kind = .idle ∧ r.sp = s.ssp + 4)) :
    exec .reti t = .next { s with pc := retpc, data := t.data } := by
  obtain ⟨m, x, off, -, -, -, ⟨hssp, hfirst, hsecond, hcm, hps, -⟩, ht⟩ := h
  have hindex : t.ssp.toNat = s.ssp.toNat + 4 := by rw [hssp]; bv_omega
  have hdown : t.popped 4 = { t with ssp := s.ssp } := by
    rw [State.popped, hssp]
    exact congrArg t.setSsp (BitVec.add_sub_cancel s.ssp 4)
  have haddr (n i : Nat) (h : n + i = 4) : t.stackAddr .sup (t.ssp.toNat - n) = s.stackAddr .sup (s.ssp.toNat + i) := by
    rw [hindex, ht, show s.ssp.toNat + 4 - n = s.ssp.toNat + i by omega]
    rfl
  have hb : t.ps.b = s.ps.b := by rw [ht]
  have hpc : t.valueAt (s.stackAddr .sup s.ssp.toNat) (s.stackAddr .sup (s.ssp.toNat + 1)) .word = retpc :=
    State.valueAt_word_of_bytes (hfirst.trans (by rw [hb]; rfl)) (hsecond.trans (by rw [hb]; rfl))
  have hidle : ¬ t.idleReturn = true := fun hidle => by
    obtain ⟨r, hr, hkind, hsp⟩ := State.idleReturn_iff.mp hidle
    exact hlink r (by rwa [ht] at hr) ⟨hkind, hsp.trans hssp⟩
  rw [exec_reti, State.returnFromException_frame (by rw [ht]; exact hp) (by rw [ht]) (by omega)
    (by rw [hindex, ht]; exact hroom), haddr 1 3 rfl, haddr 2 2 rfl, haddr 3 1 rfl, haddr 4 0 rfl]
  simp only [if_neg hidle, hdown, hcm, hps, Nat.add_zero, hpc, ← s.ps_toByte_eq_operandValue, Status.ofByte_toByte]
  exact congrArg Host.Outcome.next
    (congrArg (fun u : State => { u with ssp := s.ssp, ps := s.ps, cm := s.cm, pc := retpc }) ht)

/-- Settles O58: the handler's first state holds the frame RETI restores from. -/
theorem trapThenReti : Obligations.TrapThenReti := by
  intro num s hp hk hlt hlink
  have ⟨_, _, _, _, _, _, hroom⟩ := hk
  obtain ⟨t, htrap, hentered⟩ := State.enter_completes hp hk .faultOrTrap (s.pc + 2)
  have ⟨_, _, _, _, _, _, ⟨_, _, _, _, _, hsame⟩, _⟩ := hentered
  exact ⟨t, htrap, hsame, hentered.restored hp hroom hlt hlink⟩

end Sys2Proof.Machine

/-! PROOFS. The layout through a step (20_memory.md R80, 70_reset_and_hazards.md R300, R305): no step changes the
parameters, of the module table only a reboot changes anything, and that the BSS places alone. -/

namespace Sys2Proof.Machine

/-! ### What a reboot places (R300) -/

/-- Every BSS block that fits data space lies inside it. -/
def State.BssPlaced (t : State) : Prop :=
  ∀ m ∈ t.mods, m.bssSize.toNat ≤ t.platform.dataSize → m.bssBase.toNat + m.bssSize.toNat ≤ t.platform.dataSize

/-- Whatever the free number, the base leaves room for the block. -/
theorem bssBaseFrom_fits {dataSize : Nat} {size : Word} (free : Nat) (h : size.toNat ≤ dataSize) :
    (bssBaseFrom dataSize size free).toNat + size.toNat ≤ dataSize := by
  have hmod : free % (dataSize + 1 - size.toNat) < dataSize + 1 - size.toNat := Nat.mod_lt _ (by omega)
  have hbase : (bssBaseFrom dataSize size free).toNat ≤ free % (dataSize + 1 - size.toNat) := by
    rw [bssBaseFrom, BitVec.toNat_ofNat]
    exact Nat.mod_le ..
  omega

theorem State.bootClear_bssPlaced (s : State) : s.bootClear.BssPlaced := by
  intro m hm
  obtain ⟨i, hi, rfl⟩ := List.mem_mapIdx.mp hm
  exact bssBaseFrom_fits _

theorem State.reboot_bssPlaced (s : State) : s.reboot.BssPlaced := by
  obtain h | ⟨m, p, h⟩ := s.reboot_cases
  · exact h ▸ s.bootClear_bssPlaced
  · rw [h]
    exact s.bootClear_bssPlaced

/-! ### Only a reboot counts as one (log 4) -/

section

variable {s t : State}

theorem State.reboot_boots_ne (s : State) : s.reboot.boots ≠ s.boots := by
  rw [State.reboot_boots]
  exact Nat.succ_ne_self s.boots

/-- The VM's own next move changes PS, CM, PC, LINK and what the machine is doing at most. -/
theorem State.returnToVm_frame (s : State) : s.returnToVm = { s with
    ps := s.returnToVm.ps
    cm := s.returnToVm.cm
    pc := s.returnToVm.pc
    link := s.returnToVm.link
    run := s.returnToVm.run
    vmPhase := s.returnToVm.vmPhase } := by
  obtain h | h | ⟨a, h⟩ := s.returnToVm_cases <;> rw [h] <;> rfl

@[simp] theorem State.returnToVm_boots (s : State) : s.returnToVm.boots = s.boots := by rw [State.returnToVm_frame]

@[simp] theorem State.linkOnEntry_boots (s : State) (kind : EventKind) : (s.linkOnEntry kind).boots = s.boots := by
  unfold State.linkOnEntry
  split <;> rfl

theorem State.enter_boots {kind : EventKind} {k : Nat} {retpc : Word} (h : s.enter kind k retpc = .next t) :
    t.boots = s.boots ∨ t = s.reboot := by
  obtain rfl | ⟨m, off, u, -, hu, rfl⟩ := State.enter_next h
  · exact .inr rfl
  · exact .inl ((u.linkOnEntry_boots kind).trans (KeepsVm.pushFrame hu).boots)

theorem State.returnFromSub_boots (h : s.returnFromSub = .ok t) : t.boots = s.boots := by
  obtain ⟨r, rest, -, -, rfl⟩ | ⟨r, rest, v, u, -, -, hp, rfl⟩ | ⟨v, u, hp, rfl⟩ := State.returnFromSub_ok h
  · exact State.returnToVm_boots _
  · exact (KeepsVm.pop hp).boots
  · exact (KeepsVm.pop hp).boots

theorem State.returnFromException_boots (h : s.returnFromException = .ok t) : t.boots = s.boots := by
  obtain ⟨u, hkeep, ⟨r, rest, -, -, rfl⟩ | ⟨m, v, rfl⟩⟩ := State.returnFromException_ok h <;> exact hkeep.boots

theorem exec_boots {i : Instr} (h : exec i s = .next t) : t.boots = s.boots ∨ t = s.reboot := by
  cases exec_end h with
  | ordinary _ hkeep => exact .inl hkeep.boots
  | slept _ ht => exact .inl (ht ▸ rfl)
  | rebooted _ ht => exact .inr ht
  | event _ _ h => exact State.enter_boots h
  | called _ _ _ _ h =>
    obtain ⟨m, off, u, -, hu, rfl⟩ := State.callModule_ok.mp h
    exact .inl (KeepsVm.push hu).boots
  | returned _ h => exact .inl (State.returnFromSub_boots h)
  | returnedFromException _ h => exact .inl (State.returnFromException_boots h)

theorem State.runInstr_boots (h : s.runInstr = .next t) : t.boots = s.boots ∨ t = s.reboot := by
  obtain ⟨i, h⟩ | ⟨e, h⟩ := State.runInstr_next h
  · exact exec_boots h
  · exact State.enter_boots h

/-- The interrupt's number is off PENDING and the machine awake before it would reboot. -/
theorem State.takeInterrupt_boots (h : s.takeInterrupt = .next t) : t.boots = s.boots ∨ ∃ u : State, t = u.reboot := by
  unfold State.takeInterrupt at h
  split at h
  · exact .inl (Host.Outcome.next.inj h ▸ rfl)
  · dsimp only at h
    split at h
    all_goals exact (State.enter_boots h).imp id fun ht => ⟨_, ht⟩

@[simp] theorem State.arrive_boots (s : State) : s.arrive.boots = s.boots := by rw [State.arrive_frame]

/-- A step keeps the count of reboots or ends in one. -/
theorem step_boots (h : step s = .next t) : t.boots = s.boots ∨ ∃ u : State, t = u.reboot := by
  obtain rfl | ⟨-, h⟩ | ⟨-, h⟩ | ⟨-, rfl⟩ := step_next h
  · exact .inr ⟨_, rfl⟩
  · exact (State.takeInterrupt_boots h).imp (·.trans s.arrive_boots) id
  · exact (State.runInstr_boots h).imp (·.trans s.arrive_boots) fun ht => ⟨_, ht⟩
  · exact .inl s.arrive_boots

/-! ### The layout (R80, R82) -/

/-- Nothing the spec asks of a module table is about BSS places (20_memory.md R64). -/
theorem modsWf_withoutBss (p : Platform) (mods : List Module) : modsWf p (withoutBss mods) = modsWf p mods := by
  simp only [modsWf, withoutBss, List.length_map, List.all_map, List.filter_map]
  rfl

theorem KeepsCode.layoutWf (h : KeepsCode s t) : t.layoutWf = s.layoutWf := by
  rw [State.layoutWf, State.layoutWf, ← modsWf_withoutBss, h.platform, h.modules, modsWf_withoutBss]

end

/-- Settles O16: what a step keeps of the module table is all its conditions speak of, and a step that raises the count
of reboots ends in one, which places the blocks. -/
theorem stepKeepsLayout : Obligations.StepKeepsLayout := by
  intro s t hw h
  refine ⟨(KeepsCode.of_step h).layoutWf.trans hw, fun hboots => ?_⟩
  obtain hsame | ⟨u, rfl⟩ := step_boots h
  · exact absurd hsame hboots
  · exact u.reboot_bssPlaced

end Sys2Proof.Machine

/-! PROOFS. Privilege (60_exceptions.md R266, R281, R282): what of PS, SSP, IO space and data space an instruction can
change, said once as a second inversion of `exec`, and from it what user mode can reach and how supervisor mode is
left. -/

namespace Sys2Proof.Machine

/-! ### The addresses of user mode (20_memory.md R67, R68, R281(d)) -/

/-- A byte of the current module's BSS block or of the user stack. -/
def State.UserAddr (s : State) (a : Nat) : Prop :=
  (∃ m, s.curModule = some m ∧ m.bssBase.toNat ≤ a ∧ a < m.bssBase.toNat + m.bssSize.toNat) ∨
  ∃ j, j < s.platform.sizeU ∧ j ≤ s.platform.tosU.toNat ∧ a = s.stackAddr .usr j

section

variable {s t : State} {sp : Space}

theorem State.userAddr_of_cell {a c : Nat} (hm : s.ps.m = false) (hsp : sp ≠ .stack .sup) (h : s.cell sp a = .ok c) :
    s.UserAddr c := by
  match sp with
  | .bss =>
    obtain ⟨m, hcur, rfl, -, -, hblock⟩ := State.bssCell_ok.mp h
    exact .inl ⟨m, hcur, Nat.le_add_right .., Nat.add_lt_add_left (hblock hm) _⟩
  | .stack .usr =>
    obtain ⟨rfl, hlt, hle, -⟩ := State.stackCell_ok.mp h
    exact .inr ⟨a, hlt, hle, rfl⟩
  | .stack .sup => exact absurd rfl hsp

/-- No base register of user mode selects the supervisor stack (44_load_store_io.md R211). -/
theorem State.base_ne_sup {db : Size} {o : Operand} {b : Space × Word} (hm : s.ps.m = false)
    (h : s.base db o = .ok b) : b.1 ≠ .stack .sup := by
  cases o with
  | gp n => cases h; exact nofun
  | special r =>
    simp only [State.base, State.curStack_user hm] at h
    split at h
    all_goals cases h
    all_goals exact nofun

/-- A write changes no byte but those in cells of its space. -/
theorem State.memWrite_changes {a x : Nat} {sz : Size} {v : BitVec sz.bits} (h : s.memWrite sp a sz v = .ok t)
    (hx : t.dataByte x ≠ s.dataByte x) : ∃ i, s.cell sp i = .ok x := by
  cases sz with
  | byte =>
    obtain ⟨c, hc, rfl⟩ := State.memWrite_byte_ok.mp h
    obtain rfl : x = c := by
      by_contra hne
      simp [State.dataByte_putData, hne] at hx
    exact ⟨a, hc⟩
  | word =>
    obtain ⟨c0, c1, h0, h1, -, -, hsame⟩ := State.memWrite_word_bytes h
    have hmem : x ∈ [c0, c1] := by
      by_contra hout
      exact hx (hsame x hout)
    obtain rfl | rfl : x = c0 ∨ x = c1 := by simpa using hmem
    · exact ⟨a, h0⟩
    · exact ⟨a + 1, h1⟩

end

/-! ### What an instruction that does not write PS keeps -/

/-- PS is the same, and in user mode SSP, the IO record and every byte user mode does not address are too. -/
structure KeepsMode (s t : State) : Prop where
  ps : t.ps = s.ps
  ssp : s.ps.m = false → t.ssp = s.ssp
  ioLog : s.ps.m = false → t.ioLog = s.ioLog
  data : s.ps.m = false → ∀ a, t.dataByte a ≠ s.dataByte a → s.UserAddr a

namespace KeepsMode

variable {s t u : State}

theorem refl (s : State) : KeepsMode s s := ⟨rfl, fun _ => rfl, fun _ => rfl, fun _ _ h => absurd rfl h⟩

/-- The general registers and the VM's part of the machine may take any values. -/
theorem of_registers (h : KeepsMode s t) (hu : u = { t with
      regs := u.regs, pc := u.pc, usp := u.usp, fp := u.fp
      flags := u.flags, cm := u.cm, link := u.link, run := u.run }) : KeepsMode s u := by
  rw [hu]
  exact ⟨h.ps, h.ssp, h.ioLog, h.data⟩

/-- In supervisor mode PS alone is at stake. -/
theorem of_supervisor (hm : s.ps.m = true) (h : t.ps = s.ps) : KeepsMode s t :=
  ⟨h, fun hu => absurd (hm.symm.trans hu) nofun, fun hu => absurd (hm.symm.trans hu) nofun,
    fun hu => absurd (hm.symm.trans hu) nofun⟩

theorem setPc (h : KeepsMode s t) (v : Word) : KeepsMode s (t.setPc v) := h.of_registers rfl

theorem setFlags (h : KeepsMode s t) (v : Flags) : KeepsMode s (t.setFlags v) := h.of_registers rfl

theorem setReg (h : KeepsMode s t) (n : RegNum) (v : Byte) : KeepsMode s (t.setReg n v) := h.of_registers rfl

theorem setPair (h : KeepsMode s t) (n : RegNum) (v : Word) : KeepsMode s (t.setPair n v) := h.of_registers rfl

theorem setGp (h : KeepsMode s t) (n : RegNum) (sz : Size) (v : BitVec sz.bits) : KeepsMode s (t.setGp n sz v) :=
  h.of_registers (by rw [State.setGp_eq])

theorem putResult (h : KeepsMode s t) (sz : Size) (rd : RegNum) (len : Nat) (p : BitVec sz.bits × Flags) :
    KeepsMode s (t.putResult sz rd len p) :=
  ((h.setPc _).setGp _ _ _).setFlags _

theorem shiftBy (h : KeepsMode s t) (op : ShiftOp) (y : Bool) (sd : Size) (dir : Direction) (rd : RegNum) (n : Nat) :
    KeepsMode s (t.shiftBy op y sd dir rd n) :=
  ((h.setPc _).setGp _ _ _).setFlags _

theorem setZNUnlessAs (h : KeepsMode s t) (d : Operand) {w : Nat} (r : BitVec w) :
    KeepsMode s (t.setZNUnlessAs d r) := by
  unfold State.setZNUnlessAs
  split
  · exact h
  · exact h.setFlags _

/-- The current stack of user mode is the user's. -/
theorem setSp_curStack (h : KeepsMode s t) (v : Word) : KeepsMode s (t.setSp s.curStack v) where
  ps := (t.setSp_ps _ v).trans h.ps
  ssp hm := by rw [State.curStack_user hm]; exact h.ssp hm
  ioLog hm := by rw [State.curStack_user hm]; exact h.ioLog hm
  data hm := by rw [State.curStack_user hm]; exact h.data hm

theorem writeOperand (h : KeepsMode s t) {o : Operand} (ho : o.isPs = false) (next : Word) (sz : Size)
    (v : BitVec sz.bits) : KeepsMode s (t.writeOperand next sz v o) where
  ps := (t.writeOperand_ps next sz v ho).trans h.ps
  ssp hm := (State.writeOperand_ssp_user (h.ps ▸ hm) next sz v o).trans (h.ssp hm)
  ioLog hm := by rw [State.writeOperand_frame]; exact h.ioLog hm
  data hm := by rw [State.writeOperand_frame]; exact h.data hm

theorem memWrite {sp : Space} {a : Nat} {sz : Size} {v : BitVec sz.bits} (h : s.memWrite sp a sz v = .ok t)
    (hsp : s.ps.m = false → sp ≠ .stack .sup) : KeepsMode s t where
  ps := by rw [State.memWrite_frame h]
  ssp _ := by rw [State.memWrite_frame h]
  ioLog _ := by rw [State.memWrite_frame h]
  data hm x hx :=
    let ⟨_, hcell⟩ := State.memWrite_changes h hx
    State.userAddr_of_cell hm (hsp hm) hcell

theorem push {sz : Size} {v : BitVec sz.bits} (h : s.push sz v = .ok t) : KeepsMode s t := by
  obtain ⟨-, u, hu, rfl⟩ := State.push_ok.mp h
  exact (memWrite hu fun hm => by rw [State.curStack_user hm]; exact nofun).setSp_curStack _

theorem pop {sz : Size} {v : BitVec sz.bits} (h : s.pop sz = .ok (v, t)) : KeepsMode s t := by
  obtain ⟨-, -, rfl⟩ := State.pop_ok.mp h
  exact (refl s).setSp_curStack _

theorem ioReadByte (hm : s.ps.m = true) (h : KeepsMode s t) (port : Nat) : KeepsMode s (t.ioReadByte port).2 :=
  of_supervisor hm (by rw [State.ioReadByte_frame]; exact h.ps)

theorem ioWriteByte (hm : s.ps.m = true) (h : KeepsMode s t) (port : Nat) (v : Byte) :
    KeepsMode s (t.ioWriteByte port v) :=
  of_supervisor hm (by rw [State.ioWriteByte_frame]; exact h.ps)

theorem callModule {imp fn : Nat} {next : Word} (h : s.callModule imp fn next = .ok t) : KeepsMode s t := by
  obtain ⟨m, off, u, -, hu, rfl⟩ := State.callModule_ok.mp h
  exact (push hu).of_registers rfl

end KeepsMode

/-! ### Operations whose results keep the mode -/

/-- What comes after a check may use it. -/
theorem yields_need {α : Type} {P : α → Prop} {e : Exc} {b : Bool} {f : Unit → Try α} (h : b = true → Yields P (f ())) :
    Yields P (need e b >>= f) :=
  yields_bind (P := fun _ => b = true) (fun _ => (need_ok ..).mp) fun _ => h

section

variable (s : State)

theorem State.push_keepsMode (sz : Size) (v : BitVec sz.bits) : Yields (KeepsMode s) (s.push sz v) :=
  fun _ => KeepsMode.push

theorem State.pop_keepsMode (sz : Size) : Yields (fun p => KeepsMode s p.2) (s.pop sz) := fun _ => KeepsMode.pop

theorem State.ioRead_keepsMode (hm : s.ps.m = true) (port : Nat) :
    (sz : Size) → Yields (fun p => KeepsMode s p.2) (s.ioRead port sz)
  | .byte => yields_after fun _ => yields_ok ((KeepsMode.refl s).ioReadByte hm _)
  | .word => yields_after fun _ => yields_after fun _ =>
    yields_ok (((KeepsMode.refl s).ioReadByte hm _).ioReadByte hm _)

theorem State.ioWrite_keepsMode (hm : s.ps.m = true) (port : Nat) :
    (sz : Size) → (v : BitVec sz.bits) → Yields (KeepsMode s) (s.ioWrite port sz v)
  | .byte, _ => yields_after fun _ => yields_ok ((KeepsMode.refl s).ioWriteByte hm _ _)
  | .word, _ => yields_after fun _ => yields_after fun _ =>
    yields_ok (((KeepsMode.refl s).ioWriteByte hm _ _).ioWriteByte hm _ _)

theorem State.changeBit_keepsMode (value : Bool) (sd : Size) {d : Operand} (hd : d.isPs = false) (i : Nat) :
    Yields (KeepsMode s) (s.changeBit value sd d i) :=
  yields_after fun _ =>
    yields_ite (yields_ok ((KeepsMode.refl s).writeOperand hd _ _ _)) (yields_ok ((KeepsMode.refl s).setPc _))

theorem State.testBit_keepsMode (sd : Size) (d : Operand) (i : Nat) : Yields (KeepsMode s) (s.testBit sd d i) :=
  yields_after fun _ => yields_ok (((KeepsMode.refl s).setPc _).setFlags _)

end

/-! ### The ends of an instruction, by what they do to the mode -/

/-- The ways an instruction that is no RETI and does not name PS as its destination can end in `t`. -/
inductive ModeEnd (i : Instr) (s t : State) : Prop
  | kept (h : KeepsMode s t)
  | rebooted (h : t = s.reboot)
  /-- An exception or a trap (R266). -/
  | event (k : Nat) (retpc : Word) (h : s.enter .faultOrTrap k retpc = .next t)
  /-- A RET by a `vm` record (70_reset_and_hazards.md R302). -/
  | toVm (rest : List LinkRec) (hi : i = .ret) (h : t = (s.setLink rest).returnToVm)

theorem ModeEnd.of_finish {i : Instr} {s t : State} {r : Try State} (h : s.finish r = .next t)
    (hr : Yields (ModeEnd i s) r) : ModeEnd i s t := by
  obtain hok | ⟨e, -, he⟩ := State.finish_next h
  · exact hr t hok
  · exact .event e.num s.pc he

theorem ModeEnd.of_finish_kept {i : Instr} {s t : State} {r : Try State} (h : s.finish r = .next t)
    (hr : Yields (KeepsMode s) r) : ModeEnd i s t :=
  .of_finish h fun u hu => .kept (hr u hu)

theorem ModeEnd.of_next {i : Instr} {s t u : State} (h : (.next u : Result) = .next t) (hu : KeepsMode s u) :
    ModeEnd i s t :=
  .kept (Host.Outcome.next.inj h ▸ hu)

theorem State.returnFromSub_modeEnd (s : State) : Yields (ModeEnd .ret s) s.returnFromSub := by
  intro t h
  obtain ⟨r, rest, -, -, ht⟩ | ⟨r, rest, v, u, -, -, hp, rfl⟩ | ⟨v, u, hp, rfl⟩ := State.returnFromSub_ok h
  · exact .toVm rest rfl ht
  · exact .kept ((KeepsMode.pop hp).of_registers rfl)
  · exact .kept ((KeepsMode.pop hp).setPc v)

/-- The second inversion of `exec`: `hps` says of each instruction with a destination that it is not PS. -/
theorem exec_modeEnd {i : Instr} {s t : State} (hreti : i ≠ .reti) (hps : i.writesPs = false)
    (h : exec i s = .next t) : ModeEnd i s t := by
  have hs := KeepsMode.refl s
  cases i with
  | nop => exact .of_next h (hs.setPc _)
  | add | addc | sub | subb | addq | subq | cmpl | mulq => exact .of_next h (hs.putResult _ _ _ _)
  | test => exact .of_next h ((hs.setPc _).setFlags _)
  | shift | rot | shiftc | rotc => exact .of_next h (hs.shiftBy _ _ _ _ _ _)
  | sext => exact .of_next h ((hs.setPc _).setReg _ _)
  | swap sz rd rs =>
    cases sz with
    | byte => exact .of_next h ((hs.setPc _).setReg _ _)
    | word => exact .of_next h (((hs.setPc _).setPair _ _).setPair _ _)
  | mov | movc => exact .of_finish_kept h (yields_after fun _ => yields_ok (hs.writeOperand hps _ _ _))
  | xor | and | or =>
    exact .of_finish_kept h (yields_after fun _ => yields_ok ((hs.writeOperand hps _ _ _).setZNUnlessAs _ _))
  | testc => exact .of_finish_kept h (yields_after fun _ => yields_ok ((hs.setPc _).setFlags _))
  | mul =>
    exact .of_finish_kept h (yields_after fun _ =>
      yields_ite (yields_ok (hs.putResult _ _ _ _)) (yields_ok (hs.putResult _ _ _ _)))
  | div =>
    exact .of_finish_kept h (yields_after fun _ => yields_after fun _ =>
      yields_ite (yields_ok ((((hs.setPc _).setReg _ _).setReg _ _).setFlags _)) (yields_ok (hs.putResult _ _ _ _)))
  | clrb | clrbc | setb | setbc => exact .of_finish_kept h (s.changeBit_keepsMode _ _ hps _)
  | testb | testbc => exact .of_finish_kept h (s.testBit_keepsMode _ _ _)
  | load =>
    exact .of_finish_kept h (yields_after fun _ => yields_after fun _ =>
      yields_ite (yields_bind (s.pop_keepsMode _) fun _ hp => yields_ok (hp.writeOperand hps _ _ _))
        (yields_after fun _ => yields_ok (hs.writeOperand hps _ _ _)))
  | store =>
    exact .of_finish_kept h (yields_after fun _ =>
      yields_bind (P := fun b => s.ps.m = false → b.1 ≠ .stack .sup) (fun _ hb hm => State.base_ne_sup hm hb)
        fun _ hsp =>
          yields_ite (yields_bind (s.push_keepsMode _ _) fun _ hp => yields_ok (hp.setPc _))
            (yields_bind (P := KeepsMode s) (fun _ hw => .memWrite hw hsp) fun _ hw => yields_ok (hw.setPc _)))
  | ioctlIn =>
    exact .of_finish_kept h (yields_need fun hm => yields_after fun _ => yields_after fun _ =>
      yields_bind (s.ioRead_keepsMode hm _ _) fun _ hp => yields_ok (hp.writeOperand hps _ _ _))
  | ioctlOut =>
    exact .of_finish_kept h (yields_need fun hm => yields_after fun _ => yields_after fun _ =>
      yields_bind (s.ioWrite_keepsMode hm _ _ _) fun _ hw => yields_ok (hw.setPc _))
  | bcc =>
    exact .of_finish_kept h (yields_after fun _ =>
      yields_ite
        (yields_ite (yields_bind (s.push_keepsMode _ _) fun _ hp => yields_ok (hp.setPc _)) (yields_ok (hs.setPc _)))
        (yields_ok (hs.setPc _)))
  | jsr => exact .of_finish_kept h (yields_bind (s.push_keepsMode _ _) fun _ hp => yields_ok (hp.setPc _))
  | sleep => exact .of_next h (hs.of_registers rfl)
  | reset => exact .rebooted (Host.Outcome.next.inj h).symm
  | trap num => exact .event _ _ h
  | libcall | libcallx => exact .of_finish_kept h fun _ => KeepsMode.callModule
  | ret => exact .of_finish h s.returnFromSub_modeEnd
  | reti => exact absurd rfl hreti

/-- A destination PS is one of the forms closed to user mode (R281(b)). -/
theorem Instr.privileged_of_writesPs {i : Instr} (h : i.writesPs = true) : i.privileged = true := by
  cases i with
  | mov | xor | and | or => exact Bool.or_eq_true_iff.mpr (.inl h)
  | clrb | clrbc | setb | setbc | load | movc => exact h
  | ioctlIn => rfl
  | _ => cases h

/-- In user mode a closed form is the entry of BadInstr, so every instruction ends in one of the ways above. -/
theorem exec_modeEnd_user {i : Instr} {s t : State} (hm : s.ps.m = false) (h : exec i s = .next t) :
    ModeEnd i s t := by
  by_cases hpriv : i.privileged = true
  · rw [reservedFormsRaise i s (by simp [Instr.allowed, hm, hpriv])] at h
    exact .event Exc.badInstr.num s.pc h
  · refine exec_modeEnd (fun hi => hpriv (by rw [hi]; rfl)) ?_ h
    exact Bool.eq_false_iff.mpr fun hps => hpriv (Instr.privileged_of_writesPs hps)

/-! ### A handler's first state (R266) -/

section

variable {s t : State}

/-- A push in supervisor mode moves SSP and writes data space. -/
theorem State.push_supervisor {sz : Size} {v : BitVec sz.bits} (hm : s.ps.m = true) (h : s.push sz v = .ok t) :
    t = { s with ssp := s.ssp + BitVec.ofNat 16 sz.bytes, data := t.data } := by
  rw [← State.sp_supervisor hm]
  have hframe := State.push_frame h
  rw [State.curStack_supervisor hm] at hframe
  exact hframe

/-- After its frame an entry has changed PS as R266 says, SSP by four, and data space. -/
theorem State.pushFrame_entering {kind : EventKind} {retpc : Word} (h : s.pushFrame kind retpc = .ok t) :
    t = s.entering kind 4 t.data := by
  obtain ⟨a, b, ha, hb, ht⟩ := State.pushFrame_ok.mp h
  have ha' := State.push_supervisor rfl ha
  have hb' := State.push_supervisor (by rw [ha']; rfl) hb
  have ht' := State.push_supervisor (by rw [hb', ha']; rfl) ht
  rw [ht', hb', ha']
  simp [State.entering, State.setPs, Size.bytes, BitVec.add_assoc]

/-- An event that does not reboot has entered a handler. -/
theorem State.enter_entering {kind : EventKind} {k : Nat} {retpc : Word} (h : s.enter kind k retpc = .next t)
    (hboots : t.boots = s.boots) : ∃ m x off d, s.kernel = some m ∧ s.moduleAt m = some x ∧
      x.exports[k]? = some off ∧ t = (((s.entering kind 4 d).linkOnEntry kind).setCm m).setPc off := by
  obtain rfl | ⟨m, off, u, hhandler, hu, rfl⟩ := State.enter_next h
  · exact absurd hboots s.reboot_boots_ne
  · obtain ⟨x, hkernel, hx, hoff, -⟩ := State.handler_some.mp hhandler
    exact ⟨m, x, off, u.data, hkernel, hx, hoff, by rw [← State.pushFrame_entering hu]⟩

/-- A handler or a reboot: supervisor mode. -/
theorem State.enter_mode {k : Nat} {retpc : Word} (h : s.enter .faultOrTrap k retpc = .next t) : t.ps.m = true := by
  obtain hboots | rfl := State.enter_boots h
  · obtain ⟨m, x, off, d, -, -, -, rfl⟩ := State.enter_entering h hboots
    rfl
  · obtain ⟨-, -, hps, -⟩ := s.reboot_clears
    rw [hps]

/-- With both stacks in data space an entry changes the four bytes of the frame alone. -/
theorem State.enter_changes {k : Nat} {retpc : Word} (hp : s.platform.stacksFit = true)
    (h : s.enter .faultOrTrap k retpc = .next t) (hboots : t.boots = s.boots) {a : Nat}
    (ha : t.dataByte a ≠ s.dataByte a) : ∃ j, j < 4 ∧ a = s.stackAddr .sup (s.ssp.toNat + j) := by
  by_cases hk : s.canEnter k
  · obtain ⟨u, hu, -, -, -, -, -, -, ⟨-, -, -, -, -, hsame⟩, -⟩ := State.enter_completes hp hk .faultOrTrap retpc
    obtain rfl : u = t := Host.Outcome.next.inj (hu.symm.trans h)
    have hmem := not_imp_not.mpr (hsame a) ha
    simp only [List.mem_cons, List.not_mem_nil, or_false, not_not] at hmem
    obtain rfl | rfl | rfl | rfl := hmem
    exacts [⟨0, by decide, rfl⟩, ⟨1, by decide, rfl⟩, ⟨2, by decide, rfl⟩, ⟨3, by decide, rfl⟩]
  · obtain rfl := Host.Outcome.next.inj ((State.enter_reboots hk ..).symm.trans h)
    exact absurd hboots s.reboot_boots_ne

/-! ### Returning to the VM (70_reset_and_hazards.md R300, R302) -/

@[simp] theorem State.returnToVm_data (s : State) : s.returnToVm.data = s.data := by rw [State.returnToVm_frame]

@[simp] theorem State.returnToVm_ssp (s : State) : s.returnToVm.ssp = s.ssp := by rw [State.returnToVm_frame]

@[simp] theorem State.returnToVm_ioLog (s : State) : s.returnToVm.ioLog = s.ioLog := by rw [State.returnToVm_frame]

/-- From user mode the VM keeps PS but to sleep, for which it sets M. -/
theorem State.returnToVm_ps_user (hm : s.ps.m = false) : s.returnToVm.ps = s.ps ∨
    (s.returnToVm.run = .vmSleep ∧ s.returnToVm.ps = { s.ps with m := true }) := by
  obtain h | h | ⟨a, h⟩ := s.returnToVm_cases
  · exact .inr (h ▸ ⟨rfl, rfl⟩)
  · exact .inl (h ▸ rfl)
  · rw [h, State.startModule_eq, ← hm]
    exact .inl rfl

/-- From supervisor mode the VM goes to user mode only to start the default application after the kernel. -/
theorem State.returnToVm_leaves (hm : s.ps.m = true) (h : s.returnToVm.ps.m = false) :
    s.vmPhase = .kernel ∧ ∃ a, s.defaultApp = some a ∧ s.returnToVm.cm = a ∧ s.returnToVm.pc = 0 := by
  cases hphase : s.vmPhase with
  | kernel =>
    cases happ : s.defaultApp with
    | some a => exact ⟨rfl, a, rfl, by rw [State.returnToVm_starts hphase happ]; exact ⟨rfl, rfl⟩⟩
    | none =>
      rw [State.returnToVm_sleeps (.inl ⟨hphase, happ⟩)] at h
      cases h
  | application =>
    by_cases hkernel : s.kernel = none
    · rw [State.returnToVm_halts hphase hkernel] at h
      exact absurd (hm.symm.trans h) nofun
    · rw [State.returnToVm_sleeps (.inr ⟨hphase, hkernel⟩)] at h
      cases h

end

/-! ### The obligations on privilege -/

/-- Settles O18: an instruction itself writes through cells user mode addresses, a handler's entry writes its frame, and
the VM writes nothing. -/
theorem userModeMemory : Obligations.UserModeMemory := by
  intro i s t a hp hm h hboots ha
  cases exec_modeEnd_user hm h with
  | kept hkeep => exact (hkeep.data hm a ha).imp id .inl
  | rebooted ht => exact absurd hboots (ht ▸ s.reboot_boots_ne)
  | event k retpc h => exact .inr (.inr ⟨State.enter_mode h, State.enter_changes hp h hboots ha⟩)
  | toVm rest _ ht =>
    subst ht
    exact absurd (State.dataByte_congr (State.returnToVm_data _) (State.returnToVm_boots _) a) ha

/-- Settles O19: an instruction itself keeps all three, an entry is the handler's first state, and the VM sets M for its
sleep state alone. -/
theorem userModeStatus : Obligations.UserModeStatus := by
  intro i s t hm h hboots
  cases exec_modeEnd_user hm h with
  | kept hkeep => exact ⟨hkeep.ioLog hm, .inl ⟨hkeep.ps, hkeep.ssp hm⟩⟩
  | rebooted ht => exact absurd hboots (ht ▸ s.reboot_boots_ne)
  | event k retpc h =>
    obtain ⟨m, x, off, d, hkernel, hx, hoff, rfl⟩ := State.enter_entering h hboots
    exact ⟨rfl, .inr (.inr ⟨k, m, x, off, hkernel, hx, hoff, rfl, rfl, rfl, rfl⟩)⟩
  | toVm rest hi ht =>
    subst ht
    have hssp := (s.setLink rest).returnToVm_ssp
    refine ⟨State.returnToVm_ioLog _, ?_⟩
    obtain hps | ⟨hrun, hps⟩ := State.returnToVm_ps_user (s := s.setLink rest) hm
    · exact .inl ⟨hps, hssp⟩
    · exact .inr (.inl ⟨hi, hrun, hps, hssp⟩)

/-- Settles O20: every other instruction keeps PS, enters supervisor mode, or returns to the VM. -/
theorem leavingSupervisor : Obligations.LeavingSupervisor := by
  intro i s t hm h hleft
  by_cases hreti : i = .reti
  · exact .inl hreti
  by_cases hps : i.writesPs = true
  · exact .inr (.inl hps)
  refine .inr (.inr ?_)
  cases exec_modeEnd hreti (Bool.eq_false_iff.mpr hps) h with
  | kept hkeep =>
    rw [hkeep.ps, hm] at hleft
    cases hleft
  | rebooted ht =>
    obtain ⟨-, -, hclear, -⟩ := s.reboot_clears
    rw [ht, hclear] at hleft
    cases hleft
  | event _ _ h => exact absurd ((State.enter_mode h).symm.trans hleft) nofun
  | toVm rest hi ht =>
    subst ht
    exact ⟨hi, State.returnToVm_leaves (s := s.setLink rest) hm hleft⟩

end Sys2Proof.Machine

/-! PROOFS. Taking an interrupt (60_exceptions.md R268, R271, R273, 70_reset_and_hazards.md R302(c)): the step's branch
for it is one entry from an awake machine with the number off PENDING. -/

namespace Sys2Proof.Machine

/-! ### The lowest number of PENDING (10_state.md R42) -/

theorem lt_of_risingBelow {lo nirq k : Nat} {l : List Nat} (h : risingBelow lo nirq l = true) (hk : k ∈ l) : lo ≤ k := by
  induction l generalizing lo with
  | nil => cases hk
  | cons m rest ih =>
    simp only [risingBelow, Bool.and_eq_true, decide_eq_true_eq] at h
    obtain ⟨⟨hlo, -⟩, hrest⟩ := h
    obtain rfl | hk := List.mem_cons.mp hk
    · exact hlo
    · exact (Nat.le_succ_of_le hlo).trans (ih hrest hk)

theorem head_lt_of_risingBelow {lo nirq n k : Nat} {more : List Nat} (h : risingBelow lo nirq (n :: more) = true)
    (hk : k ∈ more) : n < k := by
  simp only [risingBelow, Bool.and_eq_true] at h
  exact lt_of_risingBelow h.2 hk

/-! ### The branch of a step that takes an interrupt (R268, R271) -/

section

variable {s : State} {n : Nat} {more : List Nat}

theorem step_eq_takeInterrupt (hreset : s.outsideReset = false) (hi : s.ps.i = true)
    (hpending : s.arrive.pending = n :: more) (hrun : s.run ≠ .halted) : step s = s.arrive.takeInterrupt := by
  have hps : s.arrive.ps = s.ps := by rw [State.arrive_frame]
  have hready : s.arrive.interruptReady = true := by
    simp [State.interruptReady, hps, hi, hpending, hrun]
  simp [step, hreset, hready]

theorem State.takeInterrupt_awake (hpending : s.pending = n :: more) (hrun : s.run ≠ .vmSleep) :
    s.takeInterrupt = ({ s with pending := more, run := .running } : State).enter .interrupt (32 + n) s.pc := by
  unfold State.takeInterrupt
  rw [hpending]
  dsimp only
  split
  next h => exact absurd h hrun
  next => rfl

theorem State.takeInterrupt_vmSleep {m : Byte} (hpending : s.pending = n :: more) (hrun : s.run = .vmSleep)
    (hk : s.kernel = some m) :
    s.takeInterrupt =
      ({ s with pending := more, run := .running, cm := m } : State).enter .idleInterrupt (32 + n) 0 := by
  unfold State.takeInterrupt
  rw [hpending, hrun, hk]
  rfl

/-! ### What an entry finds after the environment's part of the step

The environment changes PENDING and the inputs alone, so a handler is there exactly when it was before. -/

theorem State.canEnter_congr {t : State} (hmods : t.mods = s.mods) (hplatform : t.platform = s.platform)
    (hssp : t.ssp = s.ssp) (k : Nat) : t.canEnter k ↔ s.canEnter k := by
  simp only [State.canEnter, State.kernel, State.moduleAt, hmods, hplatform, hssp]

@[simp] theorem State.arrive_mods (s : State) : s.arrive.mods = s.mods := by rw [State.arrive_frame]

@[simp] theorem State.arrive_platform (s : State) : s.arrive.platform = s.platform := by rw [State.arrive_frame]

@[simp] theorem State.arrive_ssp (s : State) : s.arrive.ssp = s.ssp := by rw [State.arrive_frame]

@[simp] theorem State.arrive_link (s : State) : s.arrive.link = s.link := by rw [State.arrive_frame]

@[simp] theorem State.arrive_kernel (s : State) : s.arrive.kernel = s.kernel := by rw [State.arrive_frame]; rfl

/-! ### An interrupt in the VM's sleep state (R302(c)) -/

/-- An entry keeps LINK. -/
theorem Entered.link {t : State} {k : Nat} {retpc : Word} {keepI : Bool} (h : Entered s t k retpc keepI) :
    t.link = s.link := by
  obtain ⟨m, x, off, -, -, -, -, ht⟩ := h
  rw [ht]

/-- The `idle` record holds the SSP after the frame, and without it the machine is the handler's first state. -/
theorem State.enter_idleInterrupt {k : Nat} (hp : s.platform.stacksFit = true) (hk : s.canEnter k) (retpc : Word) :
    ∃ t, s.enter .idleInterrupt k retpc = .next t ∧ t.link = ⟨.idle, none, .sup, t.ssp⟩ :: s.link ∧
      Entered s { t with link := s.link } k retpc false := by
  obtain ⟨u, hu, hentered⟩ := State.enter_completes hp hk .idleInterrupt retpc
  refine ⟨_, hu, ?_, ?_⟩
  · rw [← hentered.link]
    rfl
  · rw [← hentered.link]
    exact hentered

end

/-- Settles O11: the number taken heads a rising list, and the step is the entry of its handler. -/
theorem interruptTaken : Obligations.InterruptTaken := by
  intro s n more hp hreset hi hpending
  refine ⟨fun hinv k hk => ?_, fun hrun => ?_, fun m hrun hkernel => ?_⟩
  · have hrising := (State.arrive_inv hinv).storeWf.pending
    rw [hpending] at hrising
    exact head_lt_of_risingBelow hrising hk
  · have hawake : s.run ≠ .halted ∧ s.run ≠ .vmSleep := by obtain h | h := hrun <;> simp [h]
    have hstep : step s = ({ s.arrive with pending := more, run := .running } : State).enter .interrupt (32 + n) s.pc :=
      (step_eq_takeInterrupt hreset hi hpending hawake.1).trans
        ((State.takeInterrupt_awake hpending (s.arrive_run ▸ hawake.2)).trans (congrArg _ s.arrive_pc))
    have hcan := State.canEnter_congr (t := { s.arrive with pending := more, run := .running }) s.arrive_mods
      s.arrive_platform s.arrive_ssp (32 + n)
    rw [hstep]
    exact ⟨fun hk => State.enter_completes (s.arrive_platform ▸ hp) (hcan.mpr hk) .interrupt s.pc,
      fun hk => State.enter_reboots (mt hcan.mp hk) .interrupt s.pc⟩
  · have hstep := step_eq_takeInterrupt hreset hi hpending (by simp [hrun])
    rw [State.takeInterrupt_vmSleep hpending (s.arrive_run.trans hrun) (s.arrive_kernel.trans hkernel)] at hstep
    have hcan := State.canEnter_congr (t := { s.arrive with pending := more, run := .running, cm := m }) s.arrive_mods
      s.arrive_platform s.arrive_ssp (32 + n)
    rw [hstep]
    refine ⟨fun hk => ?_, fun hk => State.enter_reboots (mt hcan.mp hk) .idleInterrupt 0⟩
    rw [← s.arrive_link]
    exact State.enter_idleInterrupt (s.arrive_platform ▸ hp) (hcan.mpr hk) 0

end Sys2Proof.Machine
